-- ==== Sys2Proof/Word.lean ====
section
/-! DEFINITION. The word types of the block: bytes, 16-bit registers, event words, channel numbers.
No arithmetic stands here (see Machine/Operands.lean). -/

namespace Sys2Proof

/-- A byte is 8 bits (R9). -/
abbrev Byte := BitVec 8

/-- One ACC or PREV register: 16 bits (R5 ACC_WIDTH, POS_WIDTH). -/
abbrev Half := BitVec 16

/-- The 18-bit input event word EV[17:0] (R38). -/
abbrev EventWord := BitVec 18

/-- A channel number, 0 to 7 (R5 NCH). -/
abbrev Channel := Fin 8

/-- `for ch in 0..7`: the channels in ascending order (R11). -/
def channels : List Channel := [0, 1, 2, 3, 4, 5, 6, 7]

end Sys2Proof
end

