-- ==== Sys2Proof/Config.lean ====
section
/-! DEFINITION. The fixed constants of the block (R5), its build configuration (R6, R23), the agents (R12)
and the one free value, the order of turns that no rule fixes (R12, R29).
The configuration is held in State, as the three read-only registers of R23; whether one is
well-formed (R7) is `Machine.configOk` in Machine/Operands.lean. -/

namespace Sys2Proof

/-- SAT, the accumulator saturation bound (R5). -/
def SAT : Int := 127

/-- CLAMP, the per-message magnitude clamp, in both CC modes (R5). -/
def CLAMP : Int := 63

/-- CC_STATUS, the status byte of every message: Control Change, MIDI channel 0 (R5). -/
def CC_STATUS : Byte := 0xB0#8

/-- CH_BYTE_BASE: a channel byte is CH_BYTE_BASE + channel (R5, R46). -/
def CH_BYTE_BASE : Byte := 0x30#8

/-- VARIANT, which input path and flush trigger is built (R6). -/
inductive Variant where
  | quad
  | serial
  deriving DecidableEq, Repr

/-- CC_MODE, one controller per channel or two (R6). -/
inductive CcMode where
  | single
  | dual
  deriving DecidableEq, Repr

/-- The three read-only configuration registers, fixed by the build (R6, R23). -/
structure Config where
  variant : Variant
  ccMode  : CcMode
  ccBase  : BitVec 7
  deriving DecidableEq, Repr

/-- The agents that take steps (R12). -/
inductive Agent where
  | block
  | transport
  | host
  deriving DecidableEq, Repr, Inhabited

/-- FREE VALUE: the agent of the n-th turn of a schedule that nothing lays down. Which agent moves next is
free (R12, R29, R106), so no body is given and no claim can rest on one (log 1). -/
opaque freeTurn : Nat → Agent

end Sys2Proof
end

