-- ==== Sys2Proof/Syntax.lean ====
section
/-! DEFINITION. The operations of the block: one constructor for each of the 34 rows of
spec/opcode_table.json, in the table's order, and the five encoded formats of 30_encoding.md. -/

namespace Sys2Proof

/-- The operations. A row's operands are the fields its encoding carries, or, for a row that another
operation invokes, the operands of its rule: the channel it is invoked for and the value it is given. -/
inductive Instr where
  /-- SCAN, R54: the A byte (P0) and the B byte (P1). -/
  | scan (a b : Byte)
  /-- RX, R65: one received UART byte. -/
  | rx (byte : Byte)
  /-- TICK, R78. -/
  | tick
  /-- RESERVED, R43: KIND = 0b11 with payload P1, P0. -/
  | reserved (p1 p0 : Byte)
  /-- RX.CHAN, R66: the channel field of a channel byte. -/
  | rxChan (ch : BitVec 3)
  /-- RX.DISCARD, R67: a byte that is no channel byte. -/
  | rxDiscard (byte : Byte)
  /-- RX.HIGH, R68. -/
  | rxHigh (hi : Byte)
  /-- RX.LOW, R69. -/
  | rxLow (lo : Byte)
  /-- RX.UNREACHABLE, R86: FPS = 0b11. -/
  | rxUnreachable (byte : Byte)
  /-- EDGE.NONE.00-00, R60 (T = 0x0). -/
  | edgeNone0000 (ch : Channel)
  /-- EDGE.INC.00-01, R57 (T = 0x1). -/
  | edgeInc0001 (ch : Channel)
  /-- EDGE.DEC.00-10, R58 (T = 0x2). -/
  | edgeDec0010 (ch : Channel)
  /-- EDGE.SKIP.00-11, R59 (T = 0x3). -/
  | edgeSkip0011 (ch : Channel)
  /-- EDGE.DEC.01-00, R58 (T = 0x4). -/
  | edgeDec0100 (ch : Channel)
  /-- EDGE.NONE.01-01, R60 (T = 0x5). -/
  | edgeNone0101 (ch : Channel)
  /-- EDGE.SKIP.01-10, R59 (T = 0x6). -/
  | edgeSkip0110 (ch : Channel)
  /-- EDGE.INC.01-11, R57 (T = 0x7). -/
  | edgeInc0111 (ch : Channel)
  /-- EDGE.INC.10-00, R57 (T = 0x8). -/
  | edgeInc1000 (ch : Channel)
  /-- EDGE.SKIP.10-01, R59 (T = 0x9). -/
  | edgeSkip1001 (ch : Channel)
  /-- EDGE.NONE.10-10, R60 (T = 0xA). -/
  | edgeNone1010 (ch : Channel)
  /-- EDGE.DEC.10-11, R58 (T = 0xB). -/
  | edgeDec1011 (ch : Channel)
  /-- EDGE.SKIP.11-00, R59 (T = 0xC). -/
  | edgeSkip1100 (ch : Channel)
  /-- EDGE.DEC.11-01, R58 (T = 0xD). -/
  | edgeDec1101 (ch : Channel)
  /-- EDGE.INC.11-10, R57 (T = 0xE). -/
  | edgeInc1110 (ch : Channel)
  /-- EDGE.NONE.11-11, R60 (T = 0xF). -/
  | edgeNone1111 (ch : Channel)
  /-- EMIT.SINGLE, R74: the channel and the signed value to emit. -/
  | emitSingle (ch : Channel) (v : Int)
  /-- EMIT.DUAL, R75: the channel and the signed value to emit. -/
  | emitDual (ch : Channel) (v : Int)
  /-- SATADD, R56: the channel and the signed integer to add. -/
  | satAdd (ch : Channel) (d : Int)
  /-- APPLY_DELTA, R61: the channel and the signed delta. -/
  | applyDelta (ch : Channel) (d : Int)
  /-- DRAIN_ALL, R62. -/
  | drainAll
  /-- DRAIN_ONE, R63. -/
  | drainOne (ch : Channel)
  /-- CHUNKS, R72: the signed value to split. -/
  | chunks (v : Int)
  /-- FRAME_FLUSH, R79: the channel of the completed frame. -/
  | frameFlush (ch : Channel)
  /-- RESET, R96. -/
  | reset
  deriving DecidableEq, Repr

/-- A word of one of the five formats the block decodes (30_encoding.md). TI and CFG words carry the
operands with which SCAN or the flush triggers invoke the selected operation. -/
inductive Code where
  /-- EV, the 18-bit event word (R38). -/
  | ev (w : EventWord)
  /-- PD, the 10-bit parser decode word {FPS, byte} (R45). -/
  | pd (w : BitVec 10)
  /-- TI, the 4-bit transition index of channel ch (R44). -/
  | ti (w : BitVec 4) (ch : Channel)
  /-- CFG, the CC_MODE bit, for EMIT(ch, v) (R73). -/
  | cfg (w : BitVec 1) (ch : Channel) (v : Int)
  /-- SIGNAL, the RESET line. -/
  | signal (w : BitVec 1)
  deriving DecidableEq, Repr

end Sys2Proof
end

