-- ==== Sys2Proof/WellFormed.lean ====
section
/-! DEFINITION. Which operations are well-formed: the operand ranges the rules give. -/

namespace Sys2Proof

/-- The range of a value that a drain hands to the emitter: [-127, 127] (R63, R72). -/
def drainedRange (v : Int) : Bool := decide (-127 ≤ v ∧ v ≤ 127)

/-- The range of a delta handed to the saturating adder: [-32768, 32767] (R56, R61, R70). -/
def deltaRange (d : Int) : Bool := decide (-32768 ≤ d ∧ d ≤ 32767)

/-- An operation with its operands in the ranges its rule gives. RX.DISCARD's byte is no channel byte
(R67); EMIT and CHUNKS take a value in [-127, 127] (R72, R74, R75); SATADD and APPLY_DELTA take a
delta in [-32768, 32767] (R56, R61). Every other operand's range is its type. -/
def Instr.wf : Instr → Bool
  | .rxDiscard byte => byte.extractLsb' 3 5 != 0b00110#5
  | .emitSingle _ v => drainedRange v
  | .emitDual _ v => drainedRange v
  | .chunks v => drainedRange v
  | .satAdd _ d => deltaRange d
  | .applyDelta _ d => deltaRange d
  | .scan _ _ => true
  | .rx _ => true
  | .tick => true
  | .reserved _ _ => true
  | .rxChan _ => true
  | .rxHigh _ => true
  | .rxLow _ => true
  | .rxUnreachable _ => true
  | .edgeNone0000 _ => true
  | .edgeInc0001 _ => true
  | .edgeDec0010 _ => true
  | .edgeSkip0011 _ => true
  | .edgeDec0100 _ => true
  | .edgeNone0101 _ => true
  | .edgeSkip0110 _ => true
  | .edgeInc0111 _ => true
  | .edgeInc1000 _ => true
  | .edgeSkip1001 _ => true
  | .edgeNone1010 _ => true
  | .edgeDec1011 _ => true
  | .edgeSkip1100 _ => true
  | .edgeDec1101 _ => true
  | .edgeInc1110 _ => true
  | .edgeNone1111 _ => true
  | .drainAll => true
  | .drainOne _ => true
  | .frameFlush _ => true
  | .reset => true

/-- A word whose operands are in range: a CFG word's value is one a drain hands over (R72). -/
def Code.wf : Code → Bool
  | .ev _ => true
  | .pd _ => true
  | .ti _ _ => true
  | .cfg _ _ v => drainedRange v
  | .signal _ => true

end Sys2Proof
end

