-- ==== Sys2Proof/Decode.lean ====
section
/-! DEFINITION. Decoding the five formats (R38 to R46, R73, R96), each total on any bits and refusing by
name; after it the encoder. Fields are pulled out here once. -/

namespace Sys2Proof

/-- Why a word of a format stands for no operation. -/
inductive Reject where
  /-- KIND = 0b01 with P1 ≠ 0x00 (R41). -/
  | rxPadding
  /-- KIND = 0b10 with a payload bit set (R42). -/
  | tickPadding
  /-- The RESET line is not asserted: no operation, and no error. -/
  | notAsserted
  deriving DecidableEq, Repr

/-- KIND = EV[17:16] (R38). -/
def evKind (w : EventWord) : BitVec 2 := w.extractLsb' 16 2

/-- P1 = EV[15:8] (R38). -/
def evP1 (w : EventWord) : Byte := w.extractLsb' 8 8

/-- P0 = EV[7:0] (R38). -/
def evP0 (w : EventWord) : Byte := w.extractLsb' 0 8

/-- An event word from its fields, {KIND, P1, P0} (R38). -/
def evWord (kind : BitVec 2) (p1 p0 : Byte) : EventWord := (kind ++ p1 ++ p0).cast rfl

/-- Format EV (R39 to R43). -/
def decodeEv (w : EventWord) : Except Reject Instr :=
  if evKind w = 0b00#2 then .ok (.scan (evP0 w) (evP1 w))
  else if evKind w = 0b01#2 then
    if evP1 w = 0#8 then .ok (.rx (evP0 w)) else .error .rxPadding
  else if evKind w = 0b10#2 then
    if evP1 w = 0#8 ∧ evP0 w = 0#8 then .ok .tick else .error .tickPadding
  else .ok (.reserved (evP1 w) (evP0 w))

/-- A channel byte: byte[7:3] = 0b00110, that is 0x30 to 0x37 (R45, R46). -/
def isChannelByte (byte : Byte) : Bool := byte.extractLsb' 3 5 == 0b00110#5

/-- ch = byte[2:0] of a channel byte (R46). -/
def channelField (byte : Byte) : BitVec 3 := byte.extractLsb' 0 3

/-- The parser decode word PD = {FPS, byte} (R45). -/
def parserWord (fps : BitVec 2) (byte : Byte) : BitVec 10 := (fps ++ byte).cast rfl

/-- The channel byte with channel field ch, {0b00110, ch} (R45, R46). -/
def channelByteOf (ch : BitVec 3) : Byte := (0b00110#5 ++ ch).cast rfl

/-- Format PD, the word {FPS, byte}; the first matching row decides (R45). -/
def decodePd (w : BitVec 10) : Instr :=
  if w.extractLsb' 8 2 = 0b00#2 then
    if isChannelByte (w.extractLsb' 0 8) then .rxChan (channelField (w.extractLsb' 0 8))
    else .rxDiscard (w.extractLsb' 0 8)
  else if w.extractLsb' 8 2 = 0b01#2 then .rxHigh (w.extractLsb' 0 8)
  else if w.extractLsb' 8 2 = 0b10#2 then .rxLow (w.extractLsb' 0 8)
  else .rxUnreachable (w.extractLsb' 0 8)

/-- Format TI: the 16 rows of R44's second table, read on the bits prev B, prev A, new B, new A. -/
def decodeTi (t : BitVec 4) (ch : Channel) : Instr :=
  match t.getLsbD 3, t.getLsbD 2, t.getLsbD 1, t.getLsbD 0 with
  | false, false, false, false => .edgeNone0000 ch
  | false, false, false, true  => .edgeInc0001 ch
  | false, false, true,  false => .edgeDec0010 ch
  | false, false, true,  true  => .edgeSkip0011 ch
  | false, true,  false, false => .edgeDec0100 ch
  | false, true,  false, true  => .edgeNone0101 ch
  | false, true,  true,  false => .edgeSkip0110 ch
  | false, true,  true,  true  => .edgeInc0111 ch
  | true,  false, false, false => .edgeInc1000 ch
  | true,  false, false, true  => .edgeSkip1001 ch
  | true,  false, true,  false => .edgeNone1010 ch
  | true,  false, true,  true  => .edgeDec1011 ch
  | true,  true,  false, false => .edgeSkip1100 ch
  | true,  true,  false, true  => .edgeDec1101 ch
  | true,  true,  true,  false => .edgeInc1110 ch
  | true,  true,  true,  true  => .edgeNone1111 ch

/-- Format CFG: CC_MODE selects EMIT.SINGLE or EMIT.DUAL (R73). -/
def decodeCfg (w : BitVec 1) (ch : Channel) (v : Int) : Instr :=
  if w = 0#1 then .emitSingle ch v else .emitDual ch v

/-- Format SIGNAL: the RESET line, asserted or not (R96). -/
def decodeSignal (w : BitVec 1) : Except Reject Instr :=
  if w = 1#1 then .ok .reset else .error .notAsserted

/-- Decoding a word of any of the five formats. -/
def decode : Code → Except Reject Instr
  | .ev w => decodeEv w
  | .pd w => .ok (decodePd w)
  | .ti w ch => .ok (decodeTi w ch)
  | .cfg w ch v => .ok (decodeCfg w ch v)
  | .signal w => decodeSignal w

/-- The operation a row of the opcode table stands for, from the row's own bits: 24 bits hold an EV
word, 16 bits a PD word, 8 bits a TI word for channel 0. Format CFG and the RESET line have one-bit
words that the table numbers as TI words 0x0 and 0x1; they are decoded by `decodeCfg` and
`decodeSignal` and have no table word of their own, and the INTERNAL rows have no encoding (log 11).
A word with a bit set above its format's width is none. -/
def decodeTableWord (nbits w : Nat) : Option Instr :=
  if nbits = 0 then none
  else if nbits ≤ 8 then
    if w < 2 ^ 4 then some (decodeTi (BitVec.ofNat 4 w) 0) else none
  else if nbits ≤ 16 then
    if w < 2 ^ 10 then some (decodePd (BitVec.ofNat 10 w)) else none
  else if w < 2 ^ 18 then (decodeEv (BitVec.ofNat 18 w)).toOption
  else none

/-- The encoder: the word of an operation. The six INTERNAL rows have no encoding of their own
(30_encoding.md, opcode_table.json). -/
def encode : Instr → Option Code
  | .scan a b => some (.ev (evWord 0b00#2 b a))
  | .rx byte => some (.ev (evWord 0b01#2 0#8 byte))
  | .tick => some (.ev (evWord 0b10#2 0#8 0#8))
  | .reserved p1 p0 => some (.ev (evWord 0b11#2 p1 p0))
  | .rxChan ch => some (.pd (parserWord 0b00#2 (channelByteOf ch)))
  | .rxDiscard byte => some (.pd (parserWord 0b00#2 byte))
  | .rxHigh hi => some (.pd (parserWord 0b01#2 hi))
  | .rxLow lo => some (.pd (parserWord 0b10#2 lo))
  | .rxUnreachable byte => some (.pd (parserWord 0b11#2 byte))
  | .edgeNone0000 ch => some (.ti 0x0#4 ch)
  | .edgeInc0001 ch => some (.ti 0x1#4 ch)
  | .edgeDec0010 ch => some (.ti 0x2#4 ch)
  | .edgeSkip0011 ch => some (.ti 0x3#4 ch)
  | .edgeDec0100 ch => some (.ti 0x4#4 ch)
  | .edgeNone0101 ch => some (.ti 0x5#4 ch)
  | .edgeSkip0110 ch => some (.ti 0x6#4 ch)
  | .edgeInc0111 ch => some (.ti 0x7#4 ch)
  | .edgeInc1000 ch => some (.ti 0x8#4 ch)
  | .edgeSkip1001 ch => some (.ti 0x9#4 ch)
  | .edgeNone1010 ch => some (.ti 0xA#4 ch)
  | .edgeDec1011 ch => some (.ti 0xB#4 ch)
  | .edgeSkip1100 ch => some (.ti 0xC#4 ch)
  | .edgeDec1101 ch => some (.ti 0xD#4 ch)
  | .edgeInc1110 ch => some (.ti 0xE#4 ch)
  | .edgeNone1111 ch => some (.ti 0xF#4 ch)
  | .emitSingle ch v => some (.cfg 0#1 ch v)
  | .emitDual ch v => some (.cfg 1#1 ch v)
  | .satAdd _ _ => none
  | .applyDelta _ _ => none
  | .drainAll => none
  | .drainOne _ => none
  | .chunks _ => none
  | .frameFlush _ => none
  | .reset => some (.signal 1#1)

end Sys2Proof
end

