-- ==== Sys2Proof/Machine/Operands.lean ====
section
/-! DEFINITION. Every operand computation of the spec, as functions of plain values: saturation (R10),
phases and the snapshot (R40), the transition index and the edge it selects (R44), the frame's value
(R47), delta16 (R70), chunks (R72), the controller number and value of a message (R49, R50), and
whether a configuration is well-formed (R7). -/

namespace Sys2Proof.Machine

/-- sat(v) = max(-SAT, min(SAT, v)) (R10). -/
def sat (v : Int) : Int := max (-SAT) (min SAT v)

/-- newPhase[ch] = {B[ch], A[ch]} (R40). -/
def newPhase (a b : Byte) (ch : Channel) : BitVec 2 :=
  (BitVec.ofBool (b.getLsbD ch) ++ BitVec.ofBool (a.getLsbD ch)).cast rfl

/-- The packed snapshot S, S[2*ch+1 : 2*ch] = newPhase[ch] (R40). A naming aid: no rule reads it. -/
def snapshot (a b : Byte) : BitVec 16 :=
  (newPhase a b 7 ++ newPhase a b 6 ++ newPhase a b 5 ++ newPhase a b 4 ++
    newPhase a b 3 ++ newPhase a b 2 ++ newPhase a b 1 ++ newPhase a b 0).cast rfl

/-- T = {prev[1:0], new[1:0]} (R44). -/
def transitionIndex (prev new : BitVec 2) : BitVec 4 := (prev ++ new).cast rfl

/-- The four EDGE operations of R44. -/
inductive EdgeKind where
  | none
  | inc
  | dec
  | skip
  deriving DecidableEq, Repr

/-- R44's rule in words: which bit changed, its edge, and the level of the other bit. -/
def edgeKind (t : BitVec 4) : EdgeKind :=
  let prevB := t.getLsbD 3
  let prevA := t.getLsbD 2
  let newB := t.getLsbD 1
  let newA := t.getLsbD 0
  match newA != prevA, newB != prevB with
  | false, false => .none
  | true, true => .skip
  | true, false => if newA then (if newB then .dec else .inc) else (if newB then .inc else .dec)
  | false, true => if newB then (if newA then .inc else .dec) else (if newA then .dec else .inc)

/-- The channel a 3-bit channel field stands for. -/
def channelOf (c : BitVec 3) : Channel := ⟨c.toNat, c.isLt⟩

/-- newValue = {FHI, byte}, big-endian (R47, R69). -/
def frameValue (hi lo : Byte) : Half := (hi ++ lo).cast rfl

/-- delta16(new, prev) = sext_16(trunc_16(new - prev)) (R70). -/
def delta16 (new prev : Half) : Int := (new - prev).toInt

/-- The loop of R72 with at most `fuel` rounds: every round takes sign(r) * min(abs(r), CLAMP) off r. -/
def chunksFrom : Nat → Int → List Int
  | 0, _ => []
  | fuel + 1, r =>
    if r = 0 then []
    else
      let k := r.sign * min (r.natAbs : Int) CLAMP
      k :: chunksFrom fuel (r - k)

/-- chunks(v) (R72): abs(v) rounds are enough for the loop to end. -/
def chunks (v : Int) : List Int := chunksFrom v.natAbs v

/-- SINGLE: controller = CC_BASE + ch (R49). -/
def ctrlSingle (base : BitVec 7) (ch : Channel) : Byte :=
  BitVec.ofNat 8 (base.toNat + ch.val)

/-- DUAL: controller = CC_BASE + 2*ch + pol, pol = 1 exactly for a negative chunk (R49). -/
def ctrlDual (base : BitVec 7) (ch : Channel) (k : Int) : Byte :=
  BitVec.ofNat 8 (base.toNat + 2 * ch.val + if k < 0 then 1 else 0)

/-- SINGLE: value = trunc_7(k) (R50). -/
def valueSingle (k : Int) : Byte := (BitVec.ofInt 7 k).setWidth 8

/-- DUAL: value = abs(k) (R50). -/
def valueDual (k : Int) : Byte := BitVec.ofNat 8 k.natAbs

/-- R7 for a CC mode: CC_BASE + 7 ≤ 127 (SINGLE), CC_BASE + 15 ≤ 127 (DUAL). -/
def baseOk (mode : CcMode) (base : BitVec 7) : Bool :=
  match mode with
  | .single => decide (base.toNat + 7 ≤ 127)
  | .dual => decide (base.toNat + 15 ≤ 127)

/-- A well-formed configuration (R7). -/
def configOk (c : Config) : Bool := baseOk c.ccMode c.ccBase

end Sys2Proof.Machine
end

