-- ==== Sys2Proof/Machine/State.lean ====
section
/-! DEFINITION. The state of the machine as plain data (10_state.md), the reasons it can stop, and the
state right after reset (R96). -/

namespace Sys2Proof.Machine

/-- The refusal reasons of R85; what the refusal mark records (R13). -/
inductive RefusalReason where
  /-- ReservedKind: an event with KIND = 0b11 (R43). Raised by execReserved. Safe. -/
  | reservedKind
  /-- BadPadding: RX with P1 ≠ 0, TICK with a payload bit set (R41, R42). Raised when the decoder
  rejects the presented event. Safe. -/
  | badPadding
  /-- WrongVariant: SCAN or TICK under SERIAL, RX under QUAD (R54, R65, R78). Raised by execScan, execRx,
  execTick, and for an ill-padded event of the other variant. Safe. -/
  | wrongVariant
  /-- BadConfig: a controller number above 127 is possible (R7). Raised by the port for a presented event
  and by every meaning that assembles a controller number. Safe. -/
  | badConfig
  deriving DecidableEq, Repr

/-- The operation is given no meaning. -/
inductive Refusal where
  /-- An arm of exec that has no meaning yet. No arm answers it. Safe. -/
  | notModelled (mnemonic : String)
  /-- A refusal the spec names (R85), raised as its reason says. Safe: no claim about a run that
  presents such an event is proved without the premise that no refusal is recorded. -/
  | because (reason : RefusalReason)
  deriving DecidableEq, Repr

/-- The machine has no step, ever. -/
inductive Fault where
  /-- UnreachableParseState: an RX event is taken with FPS = 0b11 (R86). Raised by execRxUnreachable.
  Safe: the state is reached by no run. -/
  | unreachableParseState
  deriving DecidableEq, Repr

/-- An output item of PEND (R51). -/
inductive OutItem where
  /-- CC(ctrl, val), the message 0xB0, ctrl, val (R48). -/
  | cc (ctrl val : Byte)
  /-- One call of the transport's flush(). -/
  | flush
  deriving DecidableEq, Repr

/-- What the Transport hands to the external MIDI transport (R29). -/
inductive Delivery where
  /-- sendEvent(CcMessage), the three bytes of R48 in order. -/
  | sendEvent (status ctrl val : Byte)
  /-- flush(). -/
  | flush
  deriving DecidableEq, Repr

/-- What the Host does when it moves: present an event word, or assert RESET (R12, R28). -/
inductive HostAct where
  | event (w : EventWord)
  | reset
  deriving DecidableEq, Repr

/-- Who moves once the turns laid down are used up (R12; log 1). Each is a schedule without end. -/
inductive Schedule where
  /-- The order of 95_test_vectors.md §3: Transport, then Block, then Host, each when it can move. -/
  | byDefault
  /-- The agents come round for ever, `first` next, then `others` in order. An agent that is not among
  them never moves again. -/
  | round (first : Agent) (others : List Agent)
  /-- The n-th turn of the free value `freeTurn` is next: any order at all. -/
  | free (n : Nat)
  deriving DecidableEq, Repr

/-- What an internal operation returns to its caller (R62, R63, R72), kept when it is run on its own. -/
inductive OpResult where
  | none
  /-- DRAIN_ALL's list of (channel, value). -/
  | drained (l : List (Channel × Int))
  /-- DRAIN_ONE's value. -/
  | value (v : Int)
  /-- CHUNKS' list of pieces. -/
  | pieces (l : List Int)
  deriving DecidableEq, Repr

/-- The state: the block's (10_state.md), its port and RESET line (R28, R92), the refusal mark (R13), and
the model's own fields for the Host's and the Transport's side (log 1, 2, 9, 19). -/
structure State where
  /-- VARIANT, CC_MODE, CC_BASE (R23). -/
  cfg        : Config
  /-- ACC[0..7], two's complement (R14). -/
  acc        : Vector Half 8
  /-- PHASE[0..7], bit 0 = A, bit 1 = B (R16). -/
  phase      : Vector (BitVec 2) 8
  /-- PHASE_VALID (R17). -/
  phaseValid : Bool
  /-- PREV[0..7], unsigned (R18). -/
  prev       : Vector Half 8
  /-- FPS (R19). -/
  fps        : BitVec 2
  /-- FCH (R20). -/
  fch        : BitVec 3
  /-- FHI (R21). -/
  fhi        : Byte
  /-- PEND, oldest first (R22). -/
  pend       : List OutItem
  /-- The refusal mark (R13). -/
  refusal    : Option RefusalReason
  /-- The presented event (R28). -/
  port       : Option EventWord
  /-- The RESET line (R96). -/
  resetLine  : Bool
  /-- What the Host will do, next first (model's own, log 2). -/
  hostQueue  : List HostAct
  /-- Who moves, next first (model's own, log 1). -/
  turns      : List Agent
  /-- Who moves after them (model's own, log 1). -/
  schedule   : Schedule
  /-- What the Transport has delivered, oldest first (R26, R29; model's own, log 19). -/
  delivered  : List Delivery
  /-- The last returned value of an internal operation run on its own (model's own, log 9). -/
  ret        : OpResult
  deriving DecidableEq, Repr

/-- The machine right after reset (R96), with the configuration of log 6 and nothing presented,
queued or delivered (log 7). -/
def State.reset : State where
  cfg        := { variant := .quad, ccMode := .single, ccBase := 0#7 }
  acc        := Vector.replicate 8 0#16
  phase      := Vector.replicate 8 0b00#2
  phaseValid := false
  prev       := Vector.replicate 8 0x0000#16
  fps        := 0b00#2
  fch        := 0#3
  fhi        := 0x00#8
  pend       := []
  refusal    := none
  port       := none
  resetLine  := false
  hostQueue  := []
  turns      := []
  schedule   := .byDefault
  delivered  := []
  ret        := .none

end Sys2Proof.Machine
end

