-- ==== Sys2Proof/Machine/Flags.lean ====
section
/-! DEFINITION. The block computes no condition flag and has no status register (R24). What stands here
are the conditions under which it takes an event (R28, R84) and the one mark a step can leave, the
refusal mark (R13). -/

namespace Sys2Proof.Machine

/-- A presented event is held while PEND is non-empty (R84). -/
def State.holding (s : State) : Bool := !s.pend.isEmpty

/-- A refusal is recorded (R13). -/
def State.refusalRecorded (s : State) : Bool := s.refusal.isSome

/-- Records a refusal. The mark is never cleared, so an earlier reason stays (R13, R85). -/
def State.recordRefusal (s : State) (r : RefusalReason) : State :=
  { s with refusal := s.refusal.or (some r) }

/-- The reason for which an event that the decoder rejects is refused. The checks run in the order of
R65's and R78's pseudocode: the variant before the padding (R88). -/
def rejectReason (c : Config) : Reject → RefusalReason
  | .rxPadding => if c.variant = .serial then .badPadding else .wrongVariant
  | .tickPadding => if c.variant = .quad then .badPadding else .wrongVariant
  | .notAsserted => .badPadding

end Sys2Proof.Machine
end

