-- ==== Sys2Proof/Machine/Ops.lean ====
section
/-! DEFINITION. The named operations over the registers and PEND (R9, R11). The block has no memory and
takes no exception (R27, R82, R89), so there is neither a memory operation nor an exception entry. -/

namespace Sys2Proof.Machine

/-- ACC[ch] read as a signed integer (R14). -/
def State.accVal (s : State) (ch : Channel) : Int := s.acc[ch].toInt

/-- ACC[ch] <- v, stored as 16-bit two's complement (R14, R56). -/
def State.setAcc (s : State) (ch : Channel) (v : Int) : State :=
  { s with acc := s.acc.set ch (BitVec.ofInt 16 v) }

/-- PHASE[ch] <- p (R54). -/
def State.setPhase (s : State) (ch : Channel) (p : BitVec 2) : State :=
  { s with phase := s.phase.set ch p }

/-- PREV[ch] <- v (R69). -/
def State.setPrev (s : State) (ch : Channel) (v : Half) : State :=
  { s with prev := s.prev.set ch v }

/-- out(item) for each item in order: appends to the end of PEND (R11, R22). -/
def State.out (s : State) (items : List OutItem) : State := { s with pend := s.pend ++ items }

/-- An operation that assembles a controller number: an ill-formed configuration has no meaning (R7, R85). -/
def withBase (ok : Bool) (t : State) : Host.Outcome State Fault Refusal :=
  if ok then .next t else .refused (.because .badConfig)

end Sys2Proof.Machine
end

