-- ==== Sys2Proof/Machine/Accumulator.lean ====
section
/-! DEFINITION. The delta accumulator: SATADD, the sixteen EDGE rows, APPLY_DELTA, DRAIN_ALL, DRAIN_ONE
(41_accumulator.md). -/

namespace Sys2Proof.Machine

/-- SATADD(ch, d): the exact integer sum, saturated (R56, R64). -/
def satAdd (ch : Channel) (d : Int) (s : State) : State := s.setAcc ch (sat (s.accVal ch + d))

/-- EDGE.INC(ch) = SATADD(ch, +1) (R57). -/
def edgeInc (ch : Channel) (s : State) : State := satAdd ch 1 s

/-- EDGE.DEC(ch) = SATADD(ch, -1) (R58). -/
def edgeDec (ch : Channel) (s : State) : State := satAdd ch (-1) s

/-- The EDGE operation a transition index selects, on channel ch (R44, R57 to R60). -/
def edgeOp (t : BitVec 4) (ch : Channel) (s : State) : State :=
  match edgeKind t with
  | .none => s
  | .inc => edgeInc ch s
  | .dec => edgeDec ch s
  | .skip => s

/-- APPLY_DELTA(ch, d) = SATADD(ch, d) (R61). -/
def applyDelta (ch : Channel) (d : Int) (s : State) : State := satAdd ch d s

/-- The loop of DRAIN_ALL over the channels that are left (R62). -/
def drainFrom : List Channel → State → List (Channel × Int) × State
  | [], s => ([], s)
  | ch :: rest, s =>
    if s.accVal ch = 0 then drainFrom rest s
    else
      let r := drainFrom rest (s.setAcc ch 0)
      ((ch, s.accVal ch) :: r.1, r.2)

/-- DRAIN_ALL: the list of (channel, value) and the state with those accumulators cleared (R62). -/
def drainAll (s : State) : List (Channel × Int) × State := drainFrom channels s

/-- DRAIN_ONE(ch): the value and the state with ACC[ch] cleared (R63). -/
def drainOne (ch : Channel) (s : State) : Int × State := (s.accVal ch, s.setAcc ch 0)

/-- EDGE.NONE.00-00 (R60): not invoked, nothing changes. -/
def execEdgeNone0000 (_ch : Channel) (s : State) : Host.Outcome State Fault Refusal := .next s

/-- EDGE.INC.00-01 (R57). -/
def execEdgeInc0001 (ch : Channel) (s : State) : Host.Outcome State Fault Refusal := .next (edgeInc ch s)

/-- EDGE.DEC.00-10 (R58). -/
def execEdgeDec0010 (ch : Channel) (s : State) : Host.Outcome State Fault Refusal := .next (edgeDec ch s)

/-- EDGE.SKIP.00-11 (R59): no operation on ACC. -/
def execEdgeSkip0011 (_ch : Channel) (s : State) : Host.Outcome State Fault Refusal := .next s

/-- EDGE.DEC.01-00 (R58). -/
def execEdgeDec0100 (ch : Channel) (s : State) : Host.Outcome State Fault Refusal := .next (edgeDec ch s)

/-- EDGE.NONE.01-01 (R60). -/
def execEdgeNone0101 (_ch : Channel) (s : State) : Host.Outcome State Fault Refusal := .next s

/-- EDGE.SKIP.01-10 (R59). -/
def execEdgeSkip0110 (_ch : Channel) (s : State) : Host.Outcome State Fault Refusal := .next s

/-- EDGE.INC.01-11 (R57). -/
def execEdgeInc0111 (ch : Channel) (s : State) : Host.Outcome State Fault Refusal := .next (edgeInc ch s)

/-- EDGE.INC.10-00 (R57). -/
def execEdgeInc1000 (ch : Channel) (s : State) : Host.Outcome State Fault Refusal := .next (edgeInc ch s)

/-- EDGE.SKIP.10-01 (R59). -/
def execEdgeSkip1001 (_ch : Channel) (s : State) : Host.Outcome State Fault Refusal := .next s

/-- EDGE.NONE.10-10 (R60). -/
def execEdgeNone1010 (_ch : Channel) (s : State) : Host.Outcome State Fault Refusal := .next s

/-- EDGE.DEC.10-11 (R58). -/
def execEdgeDec1011 (ch : Channel) (s : State) : Host.Outcome State Fault Refusal := .next (edgeDec ch s)

/-- EDGE.SKIP.11-00 (R59). -/
def execEdgeSkip1100 (_ch : Channel) (s : State) : Host.Outcome State Fault Refusal := .next s

/-- EDGE.DEC.11-01 (R58). -/
def execEdgeDec1101 (ch : Channel) (s : State) : Host.Outcome State Fault Refusal := .next (edgeDec ch s)

/-- EDGE.INC.11-10 (R57). -/
def execEdgeInc1110 (ch : Channel) (s : State) : Host.Outcome State Fault Refusal := .next (edgeInc ch s)

/-- EDGE.NONE.11-11 (R60). -/
def execEdgeNone1111 (_ch : Channel) (s : State) : Host.Outcome State Fault Refusal := .next s

/-- SATADD (R56). -/
def execSatAdd (ch : Channel) (d : Int) (s : State) : Host.Outcome State Fault Refusal := .next (satAdd ch d s)

/-- APPLY_DELTA (R61). -/
def execApplyDelta (ch : Channel) (d : Int) (s : State) : Host.Outcome State Fault Refusal :=
  .next (applyDelta ch d s)

/-- DRAIN_ALL (R62), its list kept in `ret` (log 9). -/
def execDrainAll (s : State) : Host.Outcome State Fault Refusal :=
  .next { (drainAll s).2 with ret := .drained (drainAll s).1 }

/-- DRAIN_ONE (R63), its value kept in `ret` (log 9). -/
def execDrainOne (ch : Channel) (s : State) : Host.Outcome State Fault Refusal :=
  .next { (drainOne ch s).2 with ret := .value (drainOne ch s).1 }

end Sys2Proof.Machine
end

