-- ==== Sys2Proof/Machine/Emitter.lean ====
section
/-! DEFINITION. The delta-to-MIDI-CC converter: CHUNKS, EMIT.SINGLE, EMIT.DUAL (43_cc_emitter.md). -/

namespace Sys2Proof.Machine

/-- EMIT.SINGLE(ch, v): one CC item for each piece, the sign in the value (R74). -/
def emitSingle (ch : Channel) (v : Int) (s : State) : State :=
  s.out ((chunks v).map fun k => .cc (ctrlSingle s.cfg.ccBase ch) (valueSingle k))

/-- EMIT.DUAL(ch, v): one CC item for each piece, the sign selecting the controller (R75). -/
def emitDual (ch : Channel) (v : Int) (s : State) : State :=
  s.out ((chunks v).map fun k => .cc (ctrlDual s.cfg.ccBase ch k) (valueDual k))

/-- EMIT(ch, v): CC_MODE selects the encoding. It appends no FLUSH and leaves ACC alone (R73). -/
def emit (ch : Channel) (v : Int) (s : State) : State :=
  match s.cfg.ccMode with
  | .single => emitSingle ch v s
  | .dual => emitDual ch v s

/-- CHUNKS (R72), its list kept in `ret` (log 9). -/
def execChunks (v : Int) (s : State) : Host.Outcome State Fault Refusal :=
  .next { s with ret := .pieces (chunks v) }

/-- EMIT.SINGLE (R74), under a base that keeps its controllers within 127 (R7). -/
def execEmitSingle (ch : Channel) (v : Int) (s : State) : Host.Outcome State Fault Refusal :=
  withBase (baseOk .single s.cfg.ccBase) (emitSingle ch v s)

/-- EMIT.DUAL (R75), under a base that keeps its controllers within 127 (R7). -/
def execEmitDual (ch : Channel) (v : Int) (s : State) : Host.Outcome State Fault Refusal :=
  withBase (baseOk .dual s.cfg.ccBase) (emitDual ch v s)

end Sys2Proof.Machine
end

