-- ==== Sys2Proof/Machine/FlushTrigger.lean ====
section
/-! DEFINITION. The flush triggers: TICK and FRAME_FLUSH (44_flush_trigger.md). -/

namespace Sys2Proof.Machine

/-- for (ch, v) in L: EMIT(ch, v) (R78). -/
def emitAll (l : List (Channel × Int)) (s : State) : State := l.foldl (fun t p => emit p.1 p.2 t) s

/-- TICK's effect: drain, emit, one FLUSH if anything was drained (R78, R80). -/
def tick (s : State) : State :=
  let t := emitAll (drainAll s).1 (drainAll s).2
  if (drainAll s).1 = [] then t else t.out [.flush]

/-- FRAME_FLUSH(ch): drain the channel, emit, one FLUSH if the value was not 0 (R79, R80). -/
def frameFlush (ch : Channel) (s : State) : State :=
  let t := emit ch (drainOne ch s).1 (drainOne ch s).2
  if (drainOne ch s).1 = 0 then t else t.out [.flush]

/-- TICK (R78). The decoder gives it only for a zero payload (R42). -/
def execTick (s : State) : Host.Outcome State Fault Refusal :=
  if s.cfg.variant ≠ .quad then .refused (.because .wrongVariant)
  else withBase (configOk s.cfg) (tick s)

/-- FRAME_FLUSH (R79). -/
def execFrameFlush (ch : Channel) (s : State) : Host.Outcome State Fault Refusal :=
  withBase (configOk s.cfg) (frameFlush ch s)

end Sys2Proof.Machine
end

