-- ==== Sys2Proof/Machine/Parser.lean ====
section
/-! DEFINITION. The 3-byte UART frame parser: RX and its decoded forms (42_frame_parser.md). -/

namespace Sys2Proof.Machine

/-- RX.CHAN (R66). -/
def execRxChan (ch : BitVec 3) (s : State) : Host.Outcome State Fault Refusal :=
  .next { s with fch := ch, fps := 0b01#2 }

/-- RX.DISCARD (R67): no state changes. -/
def execRxDiscard (_byte : Byte) (s : State) : Host.Outcome State Fault Refusal := .next s

/-- RX.HIGH (R68). -/
def execRxHigh (hi : Byte) (s : State) : Host.Outcome State Fault Refusal :=
  .next { s with fhi := hi, fps := 0b10#2 }

/-- RX.LOW's effect: the delta applied, PREV and FPS written, the channel flushed, in one step (R69, R32). -/
def completeFrame (lo : Byte) (s : State) : State :=
  let ch := channelOf s.fch
  let newValue := frameValue s.fhi lo
  let s1 := applyDelta ch (delta16 newValue s.prev[ch]) s
  let s2 := s1.setPrev ch newValue
  frameFlush ch { s2 with fps := 0b00#2 }

/-- RX.LOW (R69). -/
def execRxLow (lo : Byte) (s : State) : Host.Outcome State Fault Refusal :=
  withBase (configOk s.cfg) (completeFrame lo s)

/-- RX.UNREACHABLE: stuck (R86). -/
def execRxUnreachable (_byte : Byte) (_s : State) : Host.Outcome State Fault Refusal :=
  .fault .unreachableParseState

/-- RX (R65): the operation PD = {FPS, byte} selects (R45). The decoder gives it only for P1 = 0x00. -/
def execRx (byte : Byte) (s : State) : Host.Outcome State Fault Refusal :=
  if s.cfg.variant ≠ .serial then .refused (.because .wrongVariant)
  else if s.fps = 0b00#2 then
    if isChannelByte byte then execRxChan (channelField byte) s else execRxDiscard byte s
  else if s.fps = 0b01#2 then execRxHigh byte s
  else if s.fps = 0b10#2 then execRxLow byte s
  else execRxUnreachable byte s

end Sys2Proof.Machine
end

