-- ==== Sys2Proof/Machine/Port.lean ====
section
/-! DEFINITION. The two ports of the block (20_memory.md R28, R29): the Host's side of the input port, the
Transport's side of PEND, whose turn it is (R12), and the reserved event kind (R43). -/

namespace Sys2Proof.Machine

/-- RESERVED (R43): KIND = 0b11 is refused, whatever its payload. -/
def execReserved (_p1 _p0 : Byte) (_s : State) : Host.Outcome State Fault Refusal :=
  .refused (.because .reservedKind)

/-- How the Transport delivers an item: the three bytes of R48, or flush() (R29, R51). -/
def deliver : OutItem → Delivery
  | .cc ctrl val => .sendEvent CC_STATUS ctrl val
  | .flush => .flush

/-- The bytes a delivery puts on the MIDI side: status, controller, value (R48). FLUSH is no byte. -/
def Delivery.bytes : Delivery → List Byte
  | .sendEvent status ctrl val => [status, ctrl, val]
  | .flush => []

/-- A Transport step takes the head of PEND and delivers it; with PEND empty it is not enabled (R29). -/
def transportMove (s : State) : State :=
  match s.pend with
  | [] => s
  | item :: rest => { s with pend := rest, delivered := s.delivered ++ [deliver item] }

/-- A Host step. It presents its next event only once the port is free (R28), and asserts RESET at any
time (R88). -/
def hostMove (s : State) : State :=
  match s.hostQueue with
  | [] => s
  | .reset :: rest => { s with resetLine := true, hostQueue := rest }
  | .event w :: rest =>
    match s.port with
    | none => { s with port := some w, hostQueue := rest }
    | some _ => s

/-- Who moves under the default schedule: the Transport takes every item as soon as it is appended, then
the Block takes the presented event, then the Host moves (log 1; the order of 95_test_vectors.md §3). -/
def State.defaultAgent (s : State) : Agent :=
  if s.holding then .transport
  else if s.port.isSome && !s.refusalRecorded then .block
  else .host

/-- Who moves next (R12, log 1): the first of the turns laid down, or, when they are used up, the agent the
schedule names. Only the default schedule looks at the rest of the state; under the others the Transport may
be left out for ever (R106). -/
def State.nextAgent (s : State) : Agent :=
  match s.turns, s.schedule with
  | a :: _, _ => a
  | [], .byDefault => s.defaultAgent
  | [], .round a _ => a
  | [], .free n => freeTurn n

/-- A schedule after one turn of it is used. -/
def Schedule.advance : Schedule → Schedule
  | .byDefault => .byDefault
  | .round a [] => .round a []
  | .round a (b :: l) => .round b (l ++ [a])
  | .free n => .free (n + 1)

/-- The turn is used up: it leaves the turns laid down, or, when there are none, the schedule moves on. -/
def State.endTurn (s : State) : State :=
  { s with
    turns := s.turns.tail
    schedule := if s.turns = [] then s.schedule.advance else s.schedule }

/-- The event leaves the port: once taken, it is consumed (R28). -/
def State.consume (s : State) : State := { s with port := none }

/-- Event words of the script syntax (R53). -/
def eventScan (a b : Byte) : EventWord := evWord 0b00#2 b a

/-- RX <byte> (R53). -/
def eventRx (byte : Byte) : EventWord := evWord 0b01#2 0#8 byte

/-- TICK (R53). -/
def eventTick : EventWord := evWord 0b10#2 0#8 0#8

/-- The Host's serial order for one main-loop iteration of the quadrature path: the SCAN first, then the
TICK if the timer overflowed (R34, R88). -/
def hostIteration (sample : Option (Byte × Byte)) (overflow : Bool) : List HostAct :=
  (match sample with
    | some (a, b) => [.event (eventScan a b)]
    | none => []) ++
  (if overflow then [.event eventTick] else [])

/-- The channel byte of a channel, CH_BYTE_BASE + ch (R46). -/
def channelByte (ch : Channel) : Byte := CH_BYTE_BASE + BitVec.ofNat 8 ch.val

/-- A serial frame on the wire: channel byte, high byte, low byte (R47). -/
def serialFrame (ch : Channel) (value : Half) : List Byte :=
  [channelByte ch, value.extractLsb' 8 8, value.extractLsb' 0 8]

/-- The Host presenting received bytes in reception order, each once (R37). -/
def hostBytes (bytes : List Byte) : List HostAct := bytes.map fun b => .event (eventRx b)

end Sys2Proof.Machine
end

