-- ==== Sys2Proof/Machine/Reset.lean ====
section
/-! DEFINITION. RESET (70_reset_and_hazards.md R96). -/

namespace Sys2Proof.Machine

/-- RESET (R96): every state item at its reset value. A presented event and the items of PEND are
discarded; the configuration and the refusal mark stay, and so does what lies outside the block. -/
def execReset (s : State) : Host.Outcome State Fault Refusal :=
  .next { s with
    acc := Vector.replicate 8 0#16
    phase := Vector.replicate 8 0b00#2
    prev := Vector.replicate 8 0x0000#16
    phaseValid := false
    fps := 0b00#2
    fch := 0#3
    fhi := 0x00#8
    pend := []
    port := none
    ret := .none }

end Sys2Proof.Machine
end

