-- ==== Sys2Proof/Machine/Sampler.lean ====
section
/-! DEFINITION. The quadrature sampler and edge detector: SCAN and its prime branch (40_sampler.md). -/

namespace Sys2Proof.Machine

/-- One channel of SCAN: an EDGE operation if the phase changed, then PHASE[ch] <- newPhase[ch] (R54). -/
def scanChannel (a b : Byte) (s : State) (ch : Channel) : State :=
  let new := newPhase a b ch
  let s' := if new ≠ s.phase[ch] then edgeOp (transitionIndex s.phase[ch] new) ch s else s
  s'.setPhase ch new

/-- Edge detection over all channels, in ascending order (R54, R30). -/
def scanEdges (a b : Byte) (s : State) : State := channels.foldl (scanChannel a b) s

/-- prime: loads the sample without detecting edges (R55). -/
def prime (a b : Byte) (s : State) : State :=
  { channels.foldl (fun t ch => t.setPhase ch (newPhase a b ch)) s with phaseValid := true }

/-- SCAN (R54). -/
def execScan (a b : Byte) (s : State) : Host.Outcome State Fault Refusal :=
  if s.cfg.variant ≠ .quad then .refused (.because .wrongVariant)
  else if s.phaseValid then .next (scanEdges a b s)
  else .next (prime a b s)

end Sys2Proof.Machine
end

