-- ==== Sys2Proof/Machine/Dispatch.lean ====
section
/-! DEFINITION. One arm per operation, each one direct call of its meaning. -/

namespace Sys2Proof.Machine

def exec (i : Instr) (s : State) : Host.Outcome State Fault Refusal :=
  match i with
  | .scan a b => Sys2Proof.Machine.execScan a b s
  | .rx byte => Sys2Proof.Machine.execRx byte s
  | .tick => Sys2Proof.Machine.execTick s
  | .reserved p1 p0 => Sys2Proof.Machine.execReserved p1 p0 s
  | .rxChan ch => Sys2Proof.Machine.execRxChan ch s
  | .rxDiscard byte => Sys2Proof.Machine.execRxDiscard byte s
  | .rxHigh hi => Sys2Proof.Machine.execRxHigh hi s
  | .rxLow lo => Sys2Proof.Machine.execRxLow lo s
  | .rxUnreachable byte => Sys2Proof.Machine.execRxUnreachable byte s
  | .edgeNone0000 ch => Sys2Proof.Machine.execEdgeNone0000 ch s
  | .edgeInc0001 ch => Sys2Proof.Machine.execEdgeInc0001 ch s
  | .edgeDec0010 ch => Sys2Proof.Machine.execEdgeDec0010 ch s
  | .edgeSkip0011 ch => Sys2Proof.Machine.execEdgeSkip0011 ch s
  | .edgeDec0100 ch => Sys2Proof.Machine.execEdgeDec0100 ch s
  | .edgeNone0101 ch => Sys2Proof.Machine.execEdgeNone0101 ch s
  | .edgeSkip0110 ch => Sys2Proof.Machine.execEdgeSkip0110 ch s
  | .edgeInc0111 ch => Sys2Proof.Machine.execEdgeInc0111 ch s
  | .edgeInc1000 ch => Sys2Proof.Machine.execEdgeInc1000 ch s
  | .edgeSkip1001 ch => Sys2Proof.Machine.execEdgeSkip1001 ch s
  | .edgeNone1010 ch => Sys2Proof.Machine.execEdgeNone1010 ch s
  | .edgeDec1011 ch => Sys2Proof.Machine.execEdgeDec1011 ch s
  | .edgeSkip1100 ch => Sys2Proof.Machine.execEdgeSkip1100 ch s
  | .edgeDec1101 ch => Sys2Proof.Machine.execEdgeDec1101 ch s
  | .edgeInc1110 ch => Sys2Proof.Machine.execEdgeInc1110 ch s
  | .edgeNone1111 ch => Sys2Proof.Machine.execEdgeNone1111 ch s
  | .emitSingle ch v => Sys2Proof.Machine.execEmitSingle ch v s
  | .emitDual ch v => Sys2Proof.Machine.execEmitDual ch v s
  | .satAdd ch d => Sys2Proof.Machine.execSatAdd ch d s
  | .applyDelta ch d => Sys2Proof.Machine.execApplyDelta ch d s
  | .drainAll => Sys2Proof.Machine.execDrainAll s
  | .drainOne ch => Sys2Proof.Machine.execDrainOne ch s
  | .chunks v => Sys2Proof.Machine.execChunks v s
  | .frameFlush ch => Sys2Proof.Machine.execFrameFlush ch s
  | .reset => Sys2Proof.Machine.execReset s

end Sys2Proof.Machine
end

