-- ==== Sys2Proof/Machine/Block.lean ====
section
/-! DEFINITION. A Block step on the presented event (R13, R28, R84, R88), and what `withFetchWord` places
for a table word. -/

namespace Sys2Proof.Machine

/-- The outcome of taking an event in state s. A refusal of the spec's is recorded: the mark is set, and
nothing else of the taken event happens (R13, R85, log 3). -/
def settle (s : State) : Host.Outcome State Fault Refusal → Host.Outcome State Fault Refusal
  | .next t => .next t
  | .fault f => .fault f
  | .refused (.because r) => .next (s.recordRefusal r)
  | .refused r => .refused r

/-- Taking an event word: decode it, run its operation (R28, R38, R39). -/
def takeEvent (w : EventWord) (s : State) : Host.Outcome State Fault Refusal :=
  match decodeEv w with
  | .ok i => settle s (exec i s)
  | .error e => .next (s.recordRefusal (rejectReason s.cfg e))

/-- A Block step. With nothing presented the block does nothing (R95). A recorded refusal and a
non-empty PEND keep the event at the port (R28, R84), the hold before any check (R88); an ill-formed
configuration is refused as a whole (R7); otherwise the event is taken and consumed (R28). -/
def blockMove (s : State) : Host.Outcome State Fault Refusal :=
  match s.port with
  | none => .next s
  | some w =>
    if s.refusalRecorded || s.holding then .next s
    else if configOk s.cfg then takeEvent w s.consume
    else .next (s.recordRefusal .badConfig)

/-- The bit vector of the A bits (`i = 0`) or B bits (`i = 1`) of eight phases, bit ch for channel ch (R40). -/
def phaseByte (ph : Vector (BitVec 2) 8) (i : Nat) : Byte :=
  (BitVec.ofBool (ph[7].getLsbD i) ++ BitVec.ofBool (ph[6].getLsbD i) ++
    BitVec.ofBool (ph[5].getLsbD i) ++ BitVec.ofBool (ph[4].getLsbD i) ++
    BitVec.ofBool (ph[3].getLsbD i) ++ BitVec.ofBool (ph[2].getLsbD i) ++
    BitVec.ofBool (ph[1].getLsbD i) ++ BitVec.ofBool (ph[0].getLsbD i)).cast rfl

/-- The state with event word w at the port and nothing in the way of its being taken next: the Block's
turn, PEND empty, no refusal recorded, RESET not asserted, the variant v built and, if the controller
base was ill-formed, base 0 (log 10). -/
def State.present (s : State) (v : Variant) (w : EventWord) : State :=
  { s with
    port := some w
    turns := .block :: s.turns
    pend := []
    refusal := none
    resetLine := false
    cfg := { s.cfg with
      variant := v
      ccBase := if configOk s.cfg then s.cfg.ccBase else 0#7 } }

/-- The variant in whose build an event of this kind is taken: SERIAL for RX, QUAD for SCAN and TICK, as
built for the reserved kind (R2, R81). -/
def eventVariant (s : State) (w : EventWord) : Variant :=
  if evKind w = 0b01#2 then .serial else if evKind w = 0b11#2 then s.cfg.variant else .quad

/-- A TI word for channel 0: PHASE[0] is its previous phase, and the SCAN presented shows its new phase on
channel 0 and every other channel unchanged, so the SCAN invokes exactly that EDGE row (R44, R54). -/
def State.presentTransition (s : State) (t : BitVec 4) : State :=
  let shown := s.phase.set 0 (t.extractLsb' 0 2)
  { s.present .quad (eventScan (phaseByte shown 0) (phaseByte shown 1)) with
    phaseValid := true
    phase := s.phase.set 0 (t.extractLsb' 2 2) }

/-- A PD word: FPS is its two high bits, and an RX event carries its byte (R45). -/
def State.presentParserWord (s : State) (w : BitVec 10) : State :=
  { s.present .serial (eventRx (w.extractLsb' 0 8)) with fps := w.extractLsb' 8 2 }

end Sys2Proof.Machine
end

