-- ==== Sys2Proof/Machine/Step.lean ====
section
/-! DEFINITION. One step of the whole machine (R12, R13), and where a table word is placed so that the
next step runs it. -/

namespace Sys2Proof.Machine

/-- One step. An asserted RESET is taken first, whatever is presented or held (R88, R96). Otherwise the
agent whose turn it is moves (R12). -/
def step (s : State) : Host.Outcome State Fault Refusal :=
  match decodeSignal (BitVec.ofBool s.resetLine) with
  | .ok i => exec i { s with resetLine := false }
  | .error _ =>
    match s.nextAgent with
    | .host => .next (hostMove s.endTurn)
    | .transport => .next (transportMove s.endTurn)
    | .block => blockMove s.endTurn

/-- s with the table word (nbits, w) placed where the next step takes it: an EV word at the port, a PD
word in FPS and an RX event, a TI word in PHASE[0] and a SCAN event (log 10, log 11). -/
def State.withFetchWord (s : State) (nbits w : Nat) : State :=
  if nbits ≤ 8 then s.presentTransition (BitVec.ofNat 4 w)
  else if nbits ≤ 16 then s.presentParserWord (BitVec.ofNat 10 w)
  else s.present (eventVariant s (BitVec.ofNat 18 w)) (BitVec.ofNat 18 w)

end Sys2Proof.Machine
end

