-- ==== Sys2Proof/Safety.lean ====
section
/-! DEFINITION. The terms in which claims about the machine are stated: what holds of every state a run
reaches (R15, R19, R22, R25, R52, R61, R80), what one operation leaves alone, what an event reports, and
which parts of the state no output depends on (R16, R20, R21). -/

namespace Sys2Proof.Machine

/-- -127 ≤ ACC[ch] ≤ 127 for every ch (R15). -/
abbrev State.AccBounded (s : State) : Prop := ∀ ch : Channel, -127 ≤ s.accVal ch ∧ s.accVal ch ≤ 127

/-- The state of the other variant's path keeps its reset values (R25). -/
abbrev State.OtherPathInert (s : State) : Prop :=
  (s.cfg.variant = .quad →
    s.prev = Vector.replicate 8 0#16 ∧ s.fps = 0#2 ∧ s.fch = 0#3 ∧ s.fhi = 0#8) ∧
  (s.cfg.variant = .serial → s.phase = Vector.replicate 8 0#2 ∧ s.phaseValid = false)

/-- Under SERIAL every ACC is 0 between events, so before every APPLY_DELTA (R61). -/
abbrev State.SerialDrained (s : State) : Prop := s.cfg.variant = .serial → ∀ ch : Channel, s.accVal ch = 0

/-- PEND is what is left of one event's items: at most 25 (R22), and if any, one FLUSH, the last (R80). -/
abbrev State.PendShape (s : State) : Prop :=
  s.pend.length ≤ 25 ∧ (s.pend ≠ [] → s.pend.getLast? = some .flush ∧ s.pend.count .flush = 1)

/-- An item the block can emit: the controllers and values of R52, the controller within 127 (R48). -/
def legalItem (c : Config) : OutItem → Bool
  | .flush => true
  | .cc ctrl val =>
    decide (c.ccBase.toNat ≤ ctrl.toNat) && decide (ctrl.toNat ≤ 127) &&
    match c.ccMode with
    | .single => decide (ctrl.toNat ≤ c.ccBase.toNat + 7) && decide (val.toNat < 128) && val != 0x00#8 && val != 0x40#8
    | .dual => decide (ctrl.toNat ≤ c.ccBase.toNat + 15) && decide (1 ≤ val.toNat) && decide (val.toNat ≤ 0x3F)

/-- A delivery the Transport can make: 0xB0 and two bytes with bit 7 = 0, or flush() (R48). -/
def legalDelivery : Delivery → Bool
  | .flush => true
  | .sendEvent status ctrl val => status == 0xB0#8 && decide (ctrl.toNat ≤ 127) && decide (val.toNat ≤ 127)

/-- What holds of every state a run reaches from a RESET (R15, R19, R25, R61, R22, R80, R52, R48). -/
structure State.Sound (s : State) : Prop where
  acc : s.AccBounded
  fps : s.fps ≠ 0b11#2
  inert : s.OtherPathInert
  drained : s.SerialDrained
  shape : s.PendShape
  items : ∀ item ∈ s.pend, legalItem s.cfg item = true
  deliveries : ∀ d ∈ s.delivered, legalDelivery d = true

/-- Event word w is taken by the next step: R28's conditions, and the Block's turn with RESET not asserted. -/
structure State.Takes (s : State) (w : EventWord) : Prop where
  line : s.resetLine = false
  turn : s.nextAgent = .block
  port : s.port = some w
  pend : s.pend = []
  refusal : s.refusal = none
  config : configOk s.cfg = true

/-- Only ACC[ch] may differ: every other accumulator and every other state item is as before. -/
def AccOnly (ch : Channel) (s t : State) : Prop :=
  (∀ c : Channel, c ≠ ch → t.accVal c = s.accVal c) ∧ t = { s with acc := t.acc }

/-- The CC item of one piece k for channel ch under configuration c (R49, R50, R73). -/
def itemOf (c : Config) (ch : Channel) (k : Int) : OutItem :=
  match c.ccMode with
  | .single => .cc (ctrlSingle c.ccBase ch) (valueSingle k)
  | .dual => .cc (ctrlDual c.ccBase ch k) (valueDual k)

/-- What flushing one channel's value appends: its CC items and one FLUSH, or nothing for 0 (R79, R80). -/
def reportOf (c : Config) (ch : Channel) (v : Int) : List OutItem :=
  if v = 0 then [] else (chunks v).map (itemOf c ch) ++ [.flush]

/-- The piece a receiver decodes from an item for channel ch: sext_7(value) in SINGLE mode, (pol ? -value :
value) in DUAL mode (R77). -/
def pieceOf (c : Config) (ch : Channel) : OutItem → Int
  | .flush => 0
  | .cc ctrl val =>
    match c.ccMode with
    | .single => (val.setWidth 7).toInt
    | .dual => if ctrl.toNat = c.ccBase.toNat + 2 * ch.val + 1 then -(val.toNat : Int) else val.toNat

/-- One phase step forward, 00 -> 01 -> 11 -> 10 -> 00 (R44). -/
def forwardStep (p : BitVec 2) : BitVec 2 :=
  if p = 0b00#2 then 0b01#2 else if p = 0b01#2 then 0b11#2 else if p = 0b11#2 then 0b10#2 else 0b00#2

/-- n steps of the machine, stopping where a step does not answer a next state. -/
def steps : Nat → State → Host.Outcome State Fault Refusal
  | 0, s => .next s
  | n + 1, s =>
    match step s with
    | .next t => steps n t
    | o => o

/-- Agent a has the turn again and again, however far the run has gone (R106: with a the Transport, which can
step whenever PEND is non-empty, this is its weak fairness). -/
def TurnsForEver (a : Agent) (s : State) : Prop :=
  ∀ n : Nat, ∃ (m : Nat) (t : State), n ≤ m ∧ steps m s = .next t ∧ t.nextAgent = a

/-- Agent a never has the turn, however far the run goes. -/
def NeverTurns (a : Agent) (s : State) : Prop :=
  ∀ (n : Nat) (t : State), steps n s = .next t → t.nextAgent ≠ a

/-- An operation run n times in a row, stopping where it does not answer a next state. -/
def repeatExec : Nat → Instr → State → Host.Outcome State Fault Refusal
  | 0, _, s => .next s
  | n + 1, i, s =>
    match exec i s with
    | .next t => repeatExec n i t
    | o => o

/-- The two states agree but for values that mean nothing where they stand: FCH outside AwaitingHighByte and
AwaitingLowByte (R20), FHI outside AwaitingLowByte (R21), PHASE while PHASE_VALID = 0 (R16, R17). -/
structure SameButScratch (s t : State) : Prop where
  rest : t = { s with fch := t.fch, fhi := t.fhi, phase := t.phase }
  fch : s.fps = 0b01#2 ∨ s.fps = 0b10#2 → t.fch = s.fch
  fhi : s.fps = 0b10#2 → t.fhi = s.fhi
  phase : s.phaseValid = true → t.phase = s.phase

/-- Two outcomes of the same kind: related next states, or the same reason. -/
def SameOutcome : Host.Outcome State Fault Refusal → Host.Outcome State Fault Refusal → Prop
  | .next s, .next t => SameButScratch s t
  | .fault f, .fault g => f = g
  | .refused r, .refused q => r = q
  | _, _ => False

end Sys2Proof.Machine
end

