-- ==== Sys2Proof/Certificates/Slice0/Obligations.lean ====
section
/-! DEFINITION. The statements for the provers, each over every state and every operand. A statement about a
row that another operation invokes is about `exec` of that row; one about an event is about `exec` of the
event or about `step` with the event at the port. -/

open Sys2Proof Sys2Proof.Machine

/-! ### The edge detector and the accumulator (R44, R54 to R64) -/

/-- R57: EDGE.INC is selected by T = 0x1, 0x7, 0x8, 0xE and adds +1 with saturation; nothing else changes. -/
def Obligations.EdgeIncRowsAddOneSaturating : Prop :=
  ∀ (ch : Channel) (s : State),
    decodeTi 0x1#4 ch = .edgeInc0001 ch ∧ decodeTi 0x7#4 ch = .edgeInc0111 ch ∧
    decodeTi 0x8#4 ch = .edgeInc1000 ch ∧ decodeTi 0xE#4 ch = .edgeInc1110 ch ∧
    ∀ i ∈ [Instr.edgeInc0001 ch, .edgeInc0111 ch, .edgeInc1000 ch, .edgeInc1110 ch],
      ∃ t, exec i s = .next t ∧ t.accVal ch = max (-127) (min 127 (s.accVal ch + 1)) ∧ AccOnly ch s t

/-- R58: EDGE.DEC is selected by T = 0x2, 0x4, 0xB, 0xD and adds -1 with saturation; nothing else changes. -/
def Obligations.EdgeDecRowsSubtractOneSaturating : Prop :=
  ∀ (ch : Channel) (s : State),
    decodeTi 0x2#4 ch = .edgeDec0010 ch ∧ decodeTi 0x4#4 ch = .edgeDec0100 ch ∧
    decodeTi 0xB#4 ch = .edgeDec1011 ch ∧ decodeTi 0xD#4 ch = .edgeDec1101 ch ∧
    ∀ i ∈ [Instr.edgeDec0010 ch, .edgeDec0100 ch, .edgeDec1011 ch, .edgeDec1101 ch],
      ∃ t, exec i s = .next t ∧ t.accVal ch = max (-127) (min 127 (s.accVal ch - 1)) ∧ AccOnly ch s t

/-- The EDGE parts of R59 and R60: the EDGE.NONE and EDGE.SKIP rows, selected by the T values the rules list,
complete and change nothing at all. (PHASE is SCAN's to update, which the statement about SCAN says.) -/
def Obligations.EdgeNoneAndSkipRowsChangeNothing : Prop :=
  ∀ (ch : Channel) (s : State),
    decodeTi 0x0#4 ch = .edgeNone0000 ch ∧ decodeTi 0x5#4 ch = .edgeNone0101 ch ∧
    decodeTi 0xA#4 ch = .edgeNone1010 ch ∧ decodeTi 0xF#4 ch = .edgeNone1111 ch ∧
    decodeTi 0x3#4 ch = .edgeSkip0011 ch ∧ decodeTi 0x6#4 ch = .edgeSkip0110 ch ∧
    decodeTi 0x9#4 ch = .edgeSkip1001 ch ∧ decodeTi 0xC#4 ch = .edgeSkip1100 ch ∧
    ∀ i ∈ [Instr.edgeNone0000 ch, .edgeNone0101 ch, .edgeNone1010 ch, .edgeNone1111 ch,
           .edgeSkip0011 ch, .edgeSkip0110 ch, .edgeSkip1001 ch, .edgeSkip1100 ch],
      exec i s = .next s

/-- R44: T is {prev B, prev A, new B, new A}; its 16 values select the rows of the 16-value table; and the
selected row does what the rule in words says: the changed bit, its edge and the level of the other bit
select +1 or -1; both or neither changed, nothing. -/
def Obligations.TransitionTableAgreesWithRule : Prop :=
  (∀ prev new : BitVec 2,
    (transitionIndex prev new).getLsbD 3 = prev.getLsbD 1 ∧ (transitionIndex prev new).getLsbD 2 = prev.getLsbD 0 ∧
    (transitionIndex prev new).getLsbD 1 = new.getLsbD 1 ∧ (transitionIndex prev new).getLsbD 0 = new.getLsbD 0) ∧
  (∀ ch : Channel, (List.range 16).map (fun t => decodeTi (BitVec.ofNat 4 t) ch) =
    [.edgeNone0000 ch, .edgeInc0001 ch, .edgeDec0010 ch, .edgeSkip0011 ch,
     .edgeDec0100 ch, .edgeNone0101 ch, .edgeSkip0110 ch, .edgeInc0111 ch,
     .edgeInc1000 ch, .edgeSkip1001 ch, .edgeNone1010 ch, .edgeDec1011 ch,
     .edgeSkip1100 ch, .edgeDec1101 ch, .edgeInc1110 ch, .edgeNone1111 ch]) ∧
  ∀ (prev new : BitVec 2) (ch : Channel) (s : State),
    ∃ t, exec (decodeTi (transitionIndex prev new) ch) s = .next t ∧ AccOnly ch s t ∧
      t.accVal ch =
        if prev.getLsbD 0 ≠ new.getLsbD 0 ∧ prev.getLsbD 1 = new.getLsbD 1 then
          (if new.getLsbD 0 = new.getLsbD 1 then max (-127) (min 127 (s.accVal ch - 1))
            else max (-127) (min 127 (s.accVal ch + 1)))
        else if prev.getLsbD 0 = new.getLsbD 0 ∧ prev.getLsbD 1 ≠ new.getLsbD 1 then
          (if new.getLsbD 1 = new.getLsbD 0 then max (-127) (min 127 (s.accVal ch + 1))
            else max (-127) (min 127 (s.accVal ch - 1)))
        else s.accVal ch

/-- R54: a word with KIND = 00 is SCAN with A = P0 and B = P1. SCAN under QUAD with PHASE_VALID = 1 writes every PHASE[ch] with {B[ch], A[ch]} and gives each ACC[ch] the
value that the EDGE row selected by T = {old phase, new phase} gives that channel; nothing else changes, and nothing
is appended to PEND. With PHASE_VALID = 0 it primes; under SERIAL it is refused WrongVariant. -/
def Obligations.ScanDetectsEveryChannelsEdge : Prop :=
  (∀ w : EventWord, evKind w = 0b00#2 → decodeEv w = .ok (.scan (evP0 w) (evP1 w))) ∧
  ∀ (a b : Byte) (s : State),
    (s.cfg.variant = .serial → exec (.scan a b) s = .refused (.because .wrongVariant)) ∧
    (s.cfg.variant = .quad → s.phaseValid = false → exec (.scan a b) s = .next (prime a b s)) ∧
    (s.cfg.variant = .quad → s.phaseValid = true →
      ∃ t, exec (.scan a b) s = .next t ∧ t = { s with acc := t.acc, phase := t.phase } ∧
        ∀ ch : Channel,
          t.phase[ch].getLsbD 0 = a.getLsbD ch ∧ t.phase[ch].getLsbD 1 = b.getLsbD ch ∧
          ∃ u, exec (decodeTi (transitionIndex s.phase[ch] t.phase[ch]) ch) s = .next u ∧
            t.accVal ch = u.accVal ch)

/-- R55: the first SCAN after reset loads every channel's phase, sets PHASE_VALID and changes nothing else,
whatever the sample and whatever PHASE held. -/
def Obligations.FirstScanPrimesWithoutCounting : Prop :=
  ∀ (a b : Byte) (s : State), s.cfg.variant = .quad → s.phaseValid = false →
    ∃ t, exec (.scan a b) s = .next t ∧ t.phaseValid = true ∧
      (∀ ch : Channel, t.phase[ch].getLsbD 0 = a.getLsbD ch ∧ t.phase[ch].getLsbD 1 = b.getLsbD ch) ∧
      t = { s with phase := t.phase, phaseValid := true }

/-- R54's last corner case: the same A and B presented twice change nothing the second time. -/
def Obligations.RepeatedScanChangesNothing : Prop :=
  ∀ (a b : Byte) (s t : State), exec (.scan a b) s = .next t → exec (.scan a b) t = .next t

/-- R100: a channel that moved n steps forward (or backward) between two accepted SCANs is counted by n mod 4
alone: 0, +1, 0, -1 (mirrored backward). -/
def Obligations.AliasedMotionCountsModFour : Prop :=
  ∀ (a b : Byte) (ch : Channel) (n : Nat) (s : State), s.cfg.variant = .quad → s.phaseValid = true →
    ∃ t, exec (.scan a b) s = .next t ∧
      (newPhase a b ch = forwardStep^[n] s.phase[ch] →
        t.accVal ch = if n % 4 = 1 then max (-127) (min 127 (s.accVal ch + 1))
          else if n % 4 = 3 then max (-127) (min 127 (s.accVal ch - 1)) else s.accVal ch) ∧
      (s.phase[ch] = forwardStep^[n] (newPhase a b ch) →
        t.accVal ch = if n % 4 = 1 then max (-127) (min 127 (s.accVal ch - 1))
          else if n % 4 = 3 then max (-127) (min 127 (s.accVal ch + 1)) else s.accVal ch)

/-- R40: bits 2*ch+1 and 2*ch of the packed snapshot are the channel's B and A bits, and so is the phase. -/
def Obligations.SnapshotInterleavesPhaseBits : Prop :=
  ∀ (a b : Byte) (ch : Channel),
    (newPhase a b ch).getLsbD 0 = a.getLsbD ch ∧ (newPhase a b ch).getLsbD 1 = b.getLsbD ch ∧
    (snapshot a b).extractLsb' (2 * ch.val) 2 = newPhase a b ch

/-- R56: SATADD writes the exact integer sum, clamped to [-127, 127]; d = 0 leaves an accumulator within its
bounds as it is; nothing else changes. -/
def Obligations.SatAddClampsTheExactSum : Prop :=
  ∀ (ch : Channel) (d : Int) (s : State),
    ∃ t, exec (.satAdd ch d) s = .next t ∧ AccOnly ch s t ∧
      t.accVal ch = max (-127) (min 127 (s.accVal ch + d)) ∧
      (d = 0 → s.AccBounded → t = s)

/-- R61: APPLY_DELTA adds its delta through SATADD: any d ≥ 127 - ACC[ch] gives 127, any d ≤ -127 - ACC[ch] gives
-127, and any other d the sum; nothing else changes. -/
def Obligations.ApplyDeltaSaturates : Prop :=
  ∀ (ch : Channel) (d : Int) (s : State),
    ∃ t, exec (.applyDelta ch d) s = .next t ∧ AccOnly ch s t ∧
      exec (.satAdd ch d) s = .next t ∧
      (127 - s.accVal ch ≤ d → t.accVal ch = 127) ∧
      (d ≤ -127 - s.accVal ch → t.accVal ch = -127) ∧
      (-127 - s.accVal ch < d → d < 127 - s.accVal ch → t.accVal ch = s.accVal ch + d)

/-- R104 and R64: saturation happens at every step, so n increments from 0 give min(127, n), and m decrements
after them count from there: motion beyond the bound is lost, and nothing wraps. -/
def Obligations.SaturationLosesMotionBeyondTheBound : Prop :=
  ∀ (ch : Channel) (n m : Nat) (s : State), s.accVal ch = 0 →
    ∃ t u, repeatExec n (.edgeInc0001 ch) s = .next t ∧ t.accVal ch = min 127 (n : Int) ∧
      repeatExec m (.edgeDec0010 ch) t = .next u ∧
      u.accVal ch = max (-127) (min 127 (n : Int) - m)

/-- R62: DRAIN_ALL returns every non-zero accumulator with its value, channels ascending, and clears it;
afterwards every ACC is 0. Nothing else changes. (That the list is kept in `ret` is the model's choice, log 9.) -/
def Obligations.DrainAllReturnsNonzeroAscendingAndClears : Prop :=
  ∀ s : State, ∃ t, exec .drainAll s = .next t ∧
    t.ret = .drained ((channels.filter fun ch => decide (s.accVal ch ≠ 0)).map fun ch => (ch, s.accVal ch)) ∧
    (∀ ch : Channel, t.accVal ch = 0) ∧ t = { s with acc := t.acc, ret := t.ret }

/-- R62 and R78: a second drain with no edge in between returns the empty list and changes no register, and a
second TICK appends nothing. (That the list is kept in `ret` is the model's choice, log 9.) -/
def Obligations.SecondDrainIsEmpty : Prop :=
  (∀ s t : State, exec .drainAll s = .next t → exec .drainAll t = .next { t with ret := .drained [] }) ∧
  (∀ s t : State, exec .tick s = .next t → exec .tick t = .next t)

/-- R63: DRAIN_ONE returns ACC[ch], 0 included, and clears it; the other channels are untouched. (That the
value is kept in `ret` is the model's choice, log 9.) -/
def Obligations.DrainOneReturnsAndClears : Prop :=
  ∀ (ch : Channel) (s : State), ∃ t, exec (.drainOne ch) s = .next t ∧
    t.ret = .value (s.accVal ch) ∧ t.accVal ch = 0 ∧
    (∀ c : Channel, c ≠ ch → t.accVal c = s.accVal c) ∧ t = { s with acc := t.acc, ret := t.ret }

/-! ### The frame parser (R45 to R47, R65 to R71) -/

/-- R45: the word {FPS, byte} selects RX.CHAN for the bytes 0x30 to 0x37 and RX.DISCARD for the others in
AwaitingChannel, RX.HIGH, RX.LOW and the stuck row for any byte in the other states; and under SERIAL an RX
byte runs the operation so selected. -/
def Obligations.RxRunsTheParserWordsOperation : Prop :=
  (∀ (fps : BitVec 2) (byte : Byte), decodePd (parserWord fps byte) =
    if fps = 0b00#2 then
      (if 0x30 ≤ byte.toNat ∧ byte.toNat ≤ 0x37 then .rxChan (BitVec.ofNat 3 (byte.toNat - 0x30)) else .rxDiscard byte)
    else if fps = 0b01#2 then .rxHigh byte
    else if fps = 0b10#2 then .rxLow byte
    else .rxUnreachable byte) ∧
  ∀ (byte : Byte) (s : State), s.cfg.variant = .serial →
    exec (.rx byte) s = exec (decodePd (parserWord s.fps byte)) s

/-- R65, R66 to R69: an RX byte advances the parser by one state: a channel byte (0x30 to 0x37) from 00 to 01,
any other byte from 00 to 00, any byte from 01 to 10 and from 10 to 00. It is refused under QUAD. -/
def Obligations.RxAdvancesTheParserByOneByte : Prop :=
  ∀ (byte : Byte) (s : State),
    (s.cfg.variant = .quad → exec (.rx byte) s = .refused (.because .wrongVariant)) ∧
    (s.cfg.variant = .serial → s.fps ≠ 0b11#2 → configOk s.cfg = true →
      ∃ t, exec (.rx byte) s = .next t ∧
        t.fps =
          if s.fps = 0b00#2 then (if 0x30 ≤ byte.toNat ∧ byte.toNat ≤ 0x37 then 0b01#2 else 0b00#2)
          else if s.fps = 0b01#2 then 0b10#2
          else 0b00#2)

/-- R66: RX.CHAN records the channel and awaits the high byte; FHI, PREV, ACC and everything else stay. The
bytes 0x30 to 0x37 in AwaitingChannel are the ones it is selected for, channel = byte - 0x30. -/
def Obligations.ChannelByteIsRecorded : Prop :=
  (∀ (ch : BitVec 3) (s : State), exec (.rxChan ch) s = .next { s with fch := ch, fps := 0b01#2 }) ∧
  (∀ byte : Byte, 0x30 ≤ byte.toNat → byte.toNat ≤ 0x37 →
    decodePd (parserWord 0b00#2 byte) = .rxChan (BitVec.ofNat 3 (byte.toNat - 0x30)))

/-- R67: in AwaitingChannel every byte outside 0x30 to 0x37 selects RX.DISCARD, which changes no state. -/
def Obligations.OtherByteIsDiscarded : Prop :=
  (∀ (byte : Byte) (s : State), exec (.rxDiscard byte) s = .next s) ∧
  (∀ byte : Byte, byte.toNat < 0x30 ∨ 0x37 < byte.toNat →
    decodePd (parserWord 0b00#2 byte) = .rxDiscard byte)

/-- R68: RX.HIGH stores any byte as the high byte and awaits the low byte; in AwaitingHighByte every byte selects
it, the bytes 0x30 to 0x37 included. -/
def Obligations.HighByteIsStored : Prop :=
  (∀ (hi : Byte) (s : State), exec (.rxHigh hi) s = .next { s with fhi := hi, fps := 0b10#2 }) ∧
  (∀ byte : Byte, decodePd (parserWord 0b01#2 byte) = .rxHigh byte)

/-- R69: RX.LOW completes the frame in one step: with newValue = {FHI, byte} and d = delta16(newValue, PREV[FCH]),
PREV[FCH] becomes newValue, FPS becomes 00, the channel reports sat(ACC + d) and its ACC becomes 0; no other
channel and no other state item changes. In AwaitingLowByte every byte selects it. -/
def Obligations.LowByteCompletesTheFrame : Prop :=
  (∀ byte : Byte, decodePd (parserWord 0b10#2 byte) = .rxLow byte) ∧
  ∀ (lo : Byte) (s : State), configOk s.cfg = true →
    ∃ t, exec (.rxLow lo) s = .next t ∧
      (∀ c : Channel, t.prev[c].toNat =
        if c.val = s.fch.toNat then 256 * s.fhi.toNat + lo.toNat else s.prev[c].toNat) ∧
      t.fps = 0b00#2 ∧
      (∀ c : Channel, t.accVal c = if c.val = s.fch.toNat then 0 else s.accVal c) ∧
      (∀ ch : Channel, ch.val = s.fch.toNat →
        t.pend = s.pend ++ reportOf s.cfg ch
          (max (-127) (min 127 (s.accVal ch + delta16 (frameValue s.fhi lo) s.prev[ch])))) ∧
      t = { s with prev := t.prev, acc := t.acc, fps := t.fps, pend := t.pend }

/-- R86: with FPS = 11 an RX event has no step: stuck, UnreachableParseState. Reset does not give FPS = 11, and
no step writes it. -/
def Obligations.UnreachableParseStateIsStuck : Prop :=
  State.reset.fps = 0b00#2 ∧ (∀ s t : State, s.fps ≠ 0b11#2 → step s = .next t → t.fps ≠ 0b11#2) ∧
  (∀ byte : Byte, decodePd (parserWord 0b11#2 byte) = .rxUnreachable byte) ∧
  (∀ (byte : Byte) (s : State), exec (.rxUnreachable byte) s = .fault .unreachableParseState) ∧
  (∀ (byte : Byte) (s : State), s.cfg.variant = .serial → s.fps = 0b11#2 →
    exec (.rx byte) s = .fault .unreachableParseState)

/-- R70: delta16 is the difference modulo 2^16 read in [-32768, 32767], and the exact difference whenever that
is at most 32767 in magnitude. -/
def Obligations.DeltaSixteenIsTheModularDifference : Prop :=
  ∀ new prev : Half,
    -32768 ≤ delta16 new prev ∧ delta16 new prev ≤ 32767 ∧
    (delta16 new prev - ((new.toNat : Int) - prev.toNat)) % 65536 = 0 ∧
    (((new.toNat : Int) - prev.toNat).natAbs ≤ 32767 → delta16 new prev = (new.toNat : Int) - prev.toNat)

/-- R46 and R47: the channel byte of ch is 0x30 + ch, it decodes to ch, and the two data bytes of a frame are
the value's high byte and low byte. -/
def Obligations.SerialFrameIsBigEndian : Prop :=
  ∀ (ch : Channel) (value : Half),
    ∃ c hi lo : Byte, serialFrame ch value = [c, hi, lo] ∧ c.toNat = 0x30 + ch.val ∧
      isChannelByte c = true ∧ channelOf (channelField c) = ch ∧
      frameValue hi lo = value ∧ value.toNat = 256 * hi.toNat + lo.toNat

/-- R71: garbage with no byte in 0x30 to 0x37, presented in AwaitingChannel, leaves every state item of the
block as it was, and a valid frame after it completes exactly as it would without the garbage: PREV[ch] is the
frame's value, FPS is AwaitingChannel, and the channel reports its saturated delta. The run is the machine's
own (the Host presents each byte, the Block takes it), two steps a byte. (The Host's queue and the default order
of turns are the model's choices, log 1 and 2.) -/
def Obligations.GarbageResynchronises : Prop :=
  ∀ (garbage : List Byte) (ch : Channel) (value : Half) (rest : List HostAct) (s : State),
    s.cfg.variant = .serial → configOk s.cfg = true → s.fps = 0b00#2 → s.pend = [] → s.refusal = none →
    s.port = none → s.resetLine = false → s.turns = [] → s.schedule = .byDefault →
    (∀ byte ∈ garbage, byte.toNat < 0x30 ∨ 0x37 < byte.toNat) →
    s.hostQueue = hostBytes (garbage ++ serialFrame ch value) ++ rest →
    steps (2 * garbage.length) s =
      .next { s with hostQueue := hostBytes (serialFrame ch value) ++ rest } ∧
    ∃ t : State,
      steps (2 * garbage.length + 6) s = .next t ∧
      steps 6 { s with hostQueue := hostBytes (serialFrame ch value) ++ rest } = .next t ∧
      t.fps = 0b00#2 ∧ t.prev = s.prev.set ch value ∧ t.accVal ch = 0 ∧
      t.pend = reportOf s.cfg ch (max (-127) (min 127 (s.accVal ch + delta16 value s.prev[ch]))) ∧
      t.hostQueue = rest

/-! ### The CC converter and the flush triggers (R48 to R52, R72 to R81) -/

/-- R72: CHUNKS of a value in [-127, 127] returns pieces of the value's sign that sum to it exactly: full pieces
of 63 first, the remainder last, at most 3 in all, ceil(abs(v) / 63) of them; it changes no state item. (That
the list is kept in `ret` is the model's choice, log 9.) -/
def Obligations.ChunksSplitExactly : Prop :=
  ∀ (v : Int) (s : State), -127 ≤ v → v ≤ 127 →
    ∃ l : List Int, exec (.chunks v) s = .next { s with ret := .pieces l } ∧
      l.sum = v ∧ l.length = (v.natAbs + 62) / 63 ∧ l.length ≤ 3 ∧
      (∀ k ∈ l, k.sign = v.sign ∧ 1 ≤ k.natAbs ∧ k.natAbs ≤ 63) ∧
      (∀ k ∈ l.dropLast, k.natAbs = 63)

/-- R74: CC_MODE = 0 selects EMIT.SINGLE. It appends, for each piece of the value in order,
CC(CC_BASE + ch, low 7 bits of the piece), and changes nothing else, under every base R7 allows. -/
def Obligations.EmitSingleCarriesTheSignInTheValue : Prop :=
  ∀ (ch : Channel) (v : Int) (s : State), -127 ≤ v → v ≤ 127 → s.cfg.ccBase.toNat ≤ 120 →
    decodeCfg 0#1 ch v = .emitSingle ch v ∧
    exec (.emitSingle ch v) s = .next { s with pend := s.pend ++ (chunks v).map (fun k =>
      .cc (BitVec.ofNat 8 (s.cfg.ccBase.toNat + ch.val)) (BitVec.ofNat 8 (k % 128).toNat)) }

/-- R75: CC_MODE = 1 selects EMIT.DUAL. It appends, for each piece of the value in order,
CC(CC_BASE + 2*ch + pol, abs(piece)), pol = 1 exactly for a negative value, and changes nothing else, under every
base R7 allows. -/
def Obligations.EmitDualSelectsTheControllerBySign : Prop :=
  ∀ (ch : Channel) (v : Int) (s : State), -127 ≤ v → v ≤ 127 → s.cfg.ccBase.toNat ≤ 112 →
    decodeCfg 1#1 ch v = .emitDual ch v ∧
    exec (.emitDual ch v) s = .next { s with pend := s.pend ++ (chunks v).map (fun k =>
      .cc (BitVec.ofNat 8 (s.cfg.ccBase.toNat + 2 * ch.val + (if v < 0 then 1 else 0)))
        (BitVec.ofNat 8 k.natAbs)) }

/-- R7 and R85: under a base with which a controller number could exceed 127, every operation that assembles
controller numbers is refused BadConfig. (That each refuses on its own is the model's reading, log 5.) -/
def Obligations.RowsThatAssembleControllersRefuseABadBase : Prop :=
  ∀ s : State,
    (120 < s.cfg.ccBase.toNat → ∀ ch v, exec (.emitSingle ch v) s = .refused (.because .badConfig)) ∧
    (112 < s.cfg.ccBase.toNat → ∀ ch v, exec (.emitDual ch v) s = .refused (.because .badConfig)) ∧
    ((s.cfg.ccMode = .single ∧ 120 < s.cfg.ccBase.toNat) ∨ (s.cfg.ccMode = .dual ∧ 112 < s.cfg.ccBase.toNat) →
      (∀ ch, exec (.frameFlush ch) s = .refused (.because .badConfig)) ∧
      (∀ lo, exec (.rxLow lo) s = .refused (.because .badConfig)) ∧
      (s.cfg.variant = .quad → exec .tick s = .refused (.because .badConfig)))

/-- R77: in both CC modes, EMIT(ch, v) appends exactly ceil(abs(v) / 63) CC items, every one legal (R52), and the
pieces a receiver decodes from them sum to v exactly; a zero value appends nothing (R76). -/
def Obligations.EmittedPiecesSumToTheValue : Prop :=
  ∀ (ch : Channel) (v : Int) (s : State), -127 ≤ v → v ≤ 127 → configOk s.cfg = true →
    ∃ items : List OutItem,
      exec (decodeCfg (if s.cfg.ccMode = .single then 0#1 else 1#1) ch v) s =
        .next { s with pend := s.pend ++ items } ∧
      items.length = (v.natAbs + 62) / 63 ∧ (items.map (pieceOf s.cfg ch)).sum = v ∧
      (∀ item ∈ items, item ≠ .flush ∧ legalItem s.cfg item = true)

/-- R50: for a chunk k with 1 ≤ abs(k) ≤ 63, the SINGLE value is k or 128 + k, never 0x00 or 0x40, and decodes by
sext_7 to k; the DUAL value is abs(k). -/
def Obligations.ValueAssembly : Prop :=
  ∀ k : Int, 1 ≤ k.natAbs → k.natAbs ≤ 63 →
    ((valueSingle k).toNat : Int) = (if 0 < k then k else 128 + k) ∧
    valueSingle k ≠ 0x00#8 ∧ valueSingle k ≠ 0x40#8 ∧
    ((valueSingle k).setWidth 7).toInt = k ∧
    (valueDual k).toNat = k.natAbs

/-- R49 and R7: under a well-formed configuration every controller number is the exact sum of R49 and at most
127, and R7's thresholds are 120 (SINGLE) and 112 (DUAL). -/
def Obligations.ControllersStayWithinSevenBits : Prop :=
  ∀ (c : Config) (ch : Channel) (k : Int),
    (configOk c = true ↔
      (c.ccMode = .single ∧ c.ccBase.toNat ≤ 120) ∨ (c.ccMode = .dual ∧ c.ccBase.toNat ≤ 112)) ∧
    (configOk c = true → c.ccMode = .single →
      (ctrlSingle c.ccBase ch).toNat = c.ccBase.toNat + ch.val ∧ (ctrlSingle c.ccBase ch).toNat ≤ 127) ∧
    (configOk c = true → c.ccMode = .dual →
      (ctrlDual c.ccBase ch k).toNat = c.ccBase.toNat + 2 * ch.val + (if k < 0 then 1 else 0) ∧
      (ctrlDual c.ccBase ch k).toNat ≤ 127)

/-- R79: FRAME_FLUSH reports the channel's value (its CC items and one FLUSH, or nothing for 0) and clears its ACC;
no other channel is drained and nothing else changes. -/
def Obligations.FrameFlushReportsOneChannel : Prop :=
  ∀ (ch : Channel) (s : State), configOk s.cfg = true →
    ∃ t, exec (.frameFlush ch) s = .next t ∧ t.pend = s.pend ++ reportOf s.cfg ch (s.accVal ch) ∧
      t.accVal ch = 0 ∧ (∀ c : Channel, c ≠ ch → t.accVal c = s.accVal c) ∧
      t = { s with acc := t.acc, pend := t.pend }

/-- R78: the word 0x20000 is TICK. TICK drains every channel and emits the non-zero ones in ascending order, then one FLUSH if there was
any; every ACC becomes 0 and nothing else changes. It is refused WrongVariant under SERIAL, and a TICK word with
a payload bit set decodes to no TICK and is refused BadPadding. -/
def Obligations.TickDrainsEveryChannel : Prop :=
  decodeEv 0x20000#18 = .ok .tick ∧
  (∀ s : State, s.cfg.variant = .serial → exec .tick s = .refused (.because .wrongVariant)) ∧
  (∀ (w : EventWord) (c : Config), evKind w = 0b10#2 → w.extractLsb' 0 16 ≠ 0#16 → c.variant = .quad →
    ∃ e, decodeEv w = .error e ∧ rejectReason c e = .badPadding) ∧
  (∀ s : State, s.cfg.variant = .quad → configOk s.cfg = true →
    ∃ t, exec .tick s = .next t ∧ (∀ ch : Channel, t.accVal ch = 0) ∧
      t.pend = s.pend ++
        ((channels.filter fun ch => decide (s.accVal ch ≠ 0)).flatMap fun ch =>
          (chunks (s.accVal ch)).map (itemOf s.cfg ch)) ++
        (if ∀ ch : Channel, s.accVal ch = 0 then [] else [.flush]) ∧
      t = { s with acc := t.acc, pend := t.pend })

/-- R80: an event appends one FLUSH, after its last CC item, exactly if it appends a CC item; a TICK appends at
most 25 items (from accumulators within their bounds), an RX at most 4, a SCAN none. -/
def Obligations.OneFlushAfterTheLastMessage : Prop :=
  (∀ s t : State, s.AccBounded → exec .tick s = .next t →
    ∃ items, t.pend = s.pend ++ items ∧ items.length ≤ 25 ∧
      (items = [] ∨ ∃ ccs, ccs ≠ [] ∧ items = ccs ++ [.flush] ∧ OutItem.flush ∉ ccs)) ∧
  (∀ (byte : Byte) (s t : State), exec (.rx byte) s = .next t →
    ∃ items, t.pend = s.pend ++ items ∧ items.length ≤ 4 ∧
      (items = [] ∨ ∃ ccs, ccs ≠ [] ∧ items = ccs ++ [.flush] ∧ OutItem.flush ∉ ccs)) ∧
  (∀ (a b : Byte) (s t : State), exec (.scan a b) s = .next t → t.pend = s.pend)

/-- R48 and R51: CC(ctrl, val) is delivered as the three bytes 0xB0, ctrl, val, and FLUSH as flush(), no byte. -/
def Obligations.DeliveredMessageBytes : Prop :=
  (∀ ctrl val : Byte, (deliver (.cc ctrl val)).bytes = [0xB0#8, ctrl, val]) ∧
  deliver .flush = .flush ∧ (deliver .flush).bytes = []

/-! ### RESET and the ports (R12, R13, R28, R29, R84 to R88, R96) -/

/-- R96: RESET, taken by the next step whenever its line is asserted, whatever event is presented or held and
whoever's turn it is, sets every state item to its reset value, discards the presented event and PEND without
delivering anything, and keeps the configuration and the refusal mark. (That the step takes the line down, and
that the Host's queue, the turns and the past deliveries stay, is the model's choice, log 12.) -/
def Obligations.ResetSetsEveryItemAndTakesPriority : Prop :=
  (∀ s : State, ∃ t, exec .reset s = .next t ∧
    (∀ ch : Channel, t.acc[ch] = 0#16 ∧ t.phase[ch] = 0b00#2 ∧ t.prev[ch] = 0x0000#16) ∧
    t.phaseValid = false ∧ t.fps = 0b00#2 ∧ t.fch = 0#3 ∧ t.fhi = 0x00#8 ∧ t.pend = [] ∧
    t.port = none ∧ t.cfg = s.cfg ∧ t.refusal = s.refusal ∧
    t.delivered = s.delivered ∧ t.hostQueue = s.hostQueue ∧ t.turns = s.turns ∧ t.schedule = s.schedule ∧
    t.resetLine = s.resetLine) ∧
  (∀ s : State, s.resetLine = true → step s = exec .reset { s with resetLine := false })

/-- A step runs the decoded event (R28): when the next step takes event word w, and w decodes to a well-formed
operation i, the step is exec of i with the turn used and the event consumed; a refusal of the spec's becomes the
recorded mark (R13; recorded as a next state is the model's choice, log 3). -/
def Obligations.StepRunsThePresentedEvent : Prop :=
  ∀ (s : State) (w : EventWord) (i : Instr), s.Takes w → decodeEv w = .ok i → i.wf = true →
    step s =
      match exec i { s.endTurn with port := none } with
      | .next t => .next t
      | .fault f => .fault f
      | .refused (.because r) =>
        .next { s.endTurn with port := none, refusal := some r }
      | .refused r => .refused r

/-- R43: every event word with KIND = 0b11 is RESERVED, whatever its payload, and is refused ReservedKind. -/
def Obligations.ReservedKindIsRefused : Prop :=
  (∀ w : EventWord, w.extractLsb' 16 2 = 0b11#2 →
    decodeEv w = .ok (.reserved (w.extractLsb' 8 8) (w.extractLsb' 0 8))) ∧
  (∀ (p1 p0 : Byte) (s : State), exec (.reserved p1 p0) s = .refused (.because .reservedKind))

/-- R85, R41 to R43, R54, R65, R78: an event taken and refused sets the mark with the reason the rules give; the
event is consumed and nothing else happens. (Two readings are the model's. That it is a next state with the mark set
is log 3. That an event both ill-padded and of the other variant is WrongVariant, as the order in which R65 and R78
write their checks suggests, where R41 and R42 alone give BadPadding, is log 21.) -/
def Obligations.RefusedEventSetsTheMark : Prop :=
  ∀ (s : State) (w : EventWord), s.Takes w →
    (evKind w = 0b11#2 → step s = .next
      { s.endTurn with port := none, refusal := some .reservedKind }) ∧
    (evKind w = 0b01#2 → s.cfg.variant = .serial → evP1 w ≠ 0#8 → step s = .next
      { s.endTurn with port := none, refusal := some .badPadding }) ∧
    (evKind w = 0b10#2 → s.cfg.variant = .quad → w.extractLsb' 0 16 ≠ 0#16 → step s = .next
      { s.endTurn with port := none, refusal := some .badPadding }) ∧
    (evKind w = 0b01#2 → s.cfg.variant = .quad → step s = .next
      { s.endTurn with port := none, refusal := some .wrongVariant }) ∧
    (evKind w = 0b00#2 ∨ evKind w = 0b10#2 → s.cfg.variant = .serial → step s = .next
      { s.endTurn with port := none, refusal := some .wrongVariant })

/-- R7 and R85: an ill-formed configuration is refused as a whole: whatever event would be taken, the step records
BadConfig and gives the event no effect. (That the event stays at the port is the model's reading, log 4.) -/
def Obligations.IllFormedConfigurationIsRefused : Prop :=
  ∀ (s : State) (w : EventWord), s.resetLine = false → s.nextAgent = .block → s.port = some w →
    s.pend = [] → s.refusal = none →
    (s.cfg.ccMode = .single ∧ 120 < s.cfg.ccBase.toNat) ∨ (s.cfg.ccMode = .dual ∧ 112 < s.cfg.ccBase.toNat) →
    step s = .next { s.endTurn with refusal := some .badConfig }

/-- R84, R28 and R95: on the Block's turn, an event presented while PEND is non-empty or a refusal is recorded is
not taken, whatever the event and the configuration, and with nothing presented the block does nothing: only the
turn is used, and no state item changes. (That this is a next state with the turn used is the model's choice, log 22.) -/
def Obligations.HeldEventChangesNothing : Prop :=
  ∀ s : State, s.resetLine = false → s.nextAgent = .block →
    s.pend ≠ [] ∨ s.refusal ≠ none ∨ s.port = none →
    step s = .next s.endTurn

/-- R29: a Transport step takes the head item of PEND and delivers it; with PEND empty it does nothing. (The
turn and the list of deliveries are the model's choices, log 1 and 19.) -/
def Obligations.TransportTakesTheHead : Prop :=
  ∀ s : State, s.resetLine = false → s.nextAgent = .transport →
    (∀ item rest, s.pend = item :: rest →
      step s = .next { s.endTurn with
        pend := rest, delivered := s.delivered ++ [deliver item] }) ∧
    (s.pend = [] → step s = .next s.endTurn)

/-- R28 and R88: on its turn the Host presents its next event only if the port is free, waits otherwise, and
asserts RESET at any time. (The Host's queue is the model's own, log 2.) -/
def Obligations.HostPresentsOnlyAtAFreePort : Prop :=
  ∀ s : State, s.resetLine = false → s.nextAgent = .host →
    (∀ w rest, s.hostQueue = .event w :: rest → s.port = none →
      step s = .next { s.endTurn with port := some w, hostQueue := rest }) ∧
    (∀ w rest, s.hostQueue = .event w :: rest → s.port ≠ none →
      step s = .next s.endTurn) ∧
    (∀ rest, s.hostQueue = .reset :: rest →
      step s = .next { s.endTurn with resetLine := true, hostQueue := rest }) ∧
    (s.hostQueue = [] → step s = .next s.endTurn)

/-- R34: when the Host has a sample and a timer overflow for one iteration, the drain sees the edges of that
sample: four steps present and take the SCAN and then the TICK. (The Host's queue and the default order of
turns are the model's choices, log 1 and 2.) -/
def Obligations.TickSeesTheSampleOfItsIteration : Prop :=
  ∀ (a b : Byte) (s : State), s.cfg.variant = .quad → configOk s.cfg = true → s.pend = [] →
    s.refusal = none → s.port = none → s.resetLine = false → s.turns = [] → s.schedule = .byDefault →
    s.hostQueue = hostIteration (some (a, b)) true →
    ∃ t u : State, exec (.scan a b) { s with hostQueue := [] } = .next t ∧ exec .tick t = .next u ∧
      steps 4 s = .next u

/-! ### Rules about every step -/

/-- R13 and R96: the refusal mark is never cleared, by any step, RESET included. -/
def Obligations.RefusalMarkIsNeverCleared : Prop :=
  ∀ (s t : State) (r : RefusalReason), s.refusal = some r → step s = .next t → t.refusal = some r

/-- R23: no step writes VARIANT, CC_MODE or CC_BASE. -/
def Obligations.ConfigurationIsNeverWritten : Prop :=
  ∀ s t : State, step s = .next t → t.cfg = s.cfg

/-- R17, R18, R14: but for RESET, PREV changes only where RX.LOW completes a frame, and then only on the frame's
channel; PHASE_VALID and PHASE change only when a SCAN is taken under QUAD, and PHASE_VALID only to 1; an ACC
changes only when a SCAN, a TICK or a frame's low byte is taken. -/
def Obligations.RegistersAreWrittenOnlyByTheirRules : Prop :=
  ∀ s t : State, s.resetLine = false → step s = .next t →
    (∀ c : Channel, t.prev[c] ≠ s.prev[c] →
      s.cfg.variant = .serial ∧ s.fps = 0b10#2 ∧ c.val = s.fch.toNat ∧
        ∃ byte, s.port = some (eventRx byte)) ∧
    (t.phaseValid ≠ s.phaseValid ∨ t.phase ≠ s.phase →
      s.cfg.variant = .quad ∧ t.phaseValid = true ∧ ∃ a b, s.port = some (eventScan a b)) ∧
    (t.acc ≠ s.acc →
      (s.cfg.variant = .quad ∧
        ((∃ a b, s.port = some (eventScan a b)) ∨ s.port = some eventTick)) ∨
      (s.cfg.variant = .serial ∧ s.fps = 0b10#2 ∧ ∃ byte, s.port = some (eventRx byte)))

/-- R84, R29 and R35: but for RESET, no step drops, changes or reorders an output item: what was delivered,
followed by what was pending, stays at the front of what is delivered, followed by what is pending. -/
def Obligations.OutputIsNeverDroppedOrReordered : Prop :=
  ∀ s t : State, s.resetLine = false → step s = .next t →
    (s.delivered ++ s.pend.map deliver) <+: (t.delivered ++ t.pend.map deliver)

/-- The reset state is sound (R96; R15, R19, R25, R22). Its configuration is the model's choice, log 6. -/
def Obligations.ResetStateIsSound : Prop := State.reset.Sound

/-- Every step keeps soundness: accumulators within [-127, 127] (R15), FPS never 11 (R86), the other variant's
registers at their reset values (R25), ACC = 0 between serial events (R61), PEND a rest of one event's items
with one FLUSH, the last (R22, R80), every item and delivery legal (R48, R52). -/
def Obligations.EveryStepKeepsSoundness : Prop :=
  ∀ s t : State, s.Sound → step s = .next t → t.Sound

/-- R106 and R29: delivery rests on the Transport taking its turns: in any n steps without RESET in which the
Transport has at least as many turns as PEND has items, all of PEND is delivered, in order, after what had been
delivered before. (The list of turns is the model's choice, log 1.) -/
def Obligations.FairTransportDeliversEverything : Prop :=
  ∀ (n : Nat) (s t : State), s.resetLine = false → (∀ act ∈ s.hostQueue, act ≠ .reset) →
    n ≤ s.turns.length → s.pend.length ≤ (s.turns.take n).count .transport →
    steps n s = .next t →
    (s.delivered ++ s.pend.map deliver) <+: t.delivered

/-- R106: under the default schedule, with no turns laid down, the items of PEND are all delivered in as many steps, and nothing else
happens meanwhile. (The default order of turns is the model's choice, log 1.) -/
def Obligations.PendingItemsDrainByDefault : Prop :=
  ∀ s : State, s.resetLine = false → s.turns = [] → s.schedule = .byDefault →
    steps s.pend.length s =
      .next { s with pend := [], delivered := s.delivered ++ s.pend.map deliver }

/-- R106: a Transport that never has the turn leaves the block holding for ever. In any run without RESET in which
it never has it, an event presented while PEND is non-empty stays presented, PEND is not shortened, and no state item
changes at any time; and such a run starts in every state whose turns come round among other agents only. (The
turns and the schedule are the model's choices, log 1.) -/
def Obligations.UnfairTransportHoldsTheBlockForEver : Prop :=
  (∀ (s : State) (w : EventWord), s.resetLine = false → (∀ act ∈ s.hostQueue, act ≠ .reset) →
    s.port = some w → s.pend ≠ [] → NeverTurns .transport s →
    ∀ n : Nat, ∃ t : State, steps n s = .next t ∧ t = { s with turns := t.turns, schedule := t.schedule }) ∧
  (∀ (s : State) (a : Agent) (others : List Agent), s.turns = [] → s.schedule = .round a others →
    (∀ b ∈ a :: others, b ≠ .transport) → s.resetLine = false → (∀ act ∈ s.hostQueue, act ≠ .reset) →
    NeverTurns .transport s)

/-- R106: under weak fairness alone every output item is eventually delivered: in a run without RESET in which the
Transport has the turn again and again, all of PEND has been delivered at some time, in order, after what had been
delivered before. (The turns and the schedule are the model's choices, log 1.) -/
def Obligations.WeaklyFairTransportDeliversEveryItem : Prop :=
  ∀ s : State, s.resetLine = false → (∀ act ∈ s.hostQueue, act ≠ .reset) → TurnsForEver .transport s →
    ∃ (n : Nat) (t : State), steps n s = .next t ∧ (s.delivered ++ s.pend.map deliver) <+: t.delivered

/-- R106 and R84: under the same fairness every presented event is eventually taken: in a run without RESET in which
the Transport and the Block have the turn again and again, under a well-formed configuration and with no refusal
recorded, a time comes at which the next step takes the event. (The turns and the schedule are the model's choices,
log 1.) -/
def Obligations.FairnessTakesThePresentedEvent : Prop :=
  ∀ (s : State) (w : EventWord), s.resetLine = false → (∀ act ∈ s.hostQueue, act ≠ .reset) →
    s.port = some w → s.refusal = none → configOk s.cfg = true →
    TurnsForEver .transport s → TurnsForEver .block s →
    ∃ (n : Nat) (t : State), steps n s = .next t ∧ t.Takes w

/-- R16, R20, R21: no run depends on the reset value of PHASE before it is primed, on FCH outside a frame or on
FHI before the high byte: two states that differ only there have, after any number of steps, the same outcome,
with the same deliveries. -/
def Obligations.ScratchValuesAreUnobservable : Prop :=
  ∀ (n : Nat) (s t : State), SameButScratch s t →
    SameOutcome (steps n s) (steps n t)

/-! ### Encodings (R38 to R46) -/

/-- Decoding the encoding of a well-formed operation gives it back, whatever its operands (R38 to R46, R73). -/
def Obligations.DecodeOfEncodeIsIdentity : Prop :=
  ∀ (i : Instr) (c : Code), i.wf = true → encode i = some c → decode c = .ok i

/-- Every word that decodes to an operation is that operation's encoding, and the operation is well-formed: each
word has one meaning, and no bit of it is ignored (R38 to R46). -/
def Obligations.EncodeOfDecodeIsIdentity : Prop :=
  ∀ (c : Code) (i : Instr), c.wf = true → decode c = .ok i → i.wf = true ∧ encode i = some c

/-- The words of the spec's own programs and tables decode as it says (R39, R44, R45, R53; 95_test_vectors.md). -/
def Obligations.SampleWordsDecode : Prop :=
  decodeEv 0x00101#18 = .ok (.scan 0x01#8 0x01#8) ∧ decodeEv 0x00FFF#18 = .ok (.scan 0xFF#8 0x0F#8) ∧
  decodeEv 0x10033#18 = .ok (.rx 0x33#8) ∧ decodeEv 0x20000#18 = .ok .tick ∧
  decodeEv 0x30000#18 = .ok (.reserved 0#8 0#8) ∧ decodeEv 0x10133#18 = .error .rxPadding ∧
  decodeEv 0x20001#18 = .error .tickPadding ∧
  decodePd 0x033#10 = .rxChan 3#3 ∧ decodePd 0x0B3#10 = .rxDiscard 0xB3#8 ∧
  decodePd 0x136#10 = .rxHigh 0x36#8 ∧ decodePd 0x230#10 = .rxLow 0x30#8 ∧
  decodeTi 0x7#4 3 = .edgeInc0111 3 ∧ decodeTi 0xB#4 1 = .edgeDec1011 1 ∧
  decodeCfg 1#1 5 (-70) = .emitDual 5 (-70) ∧ decodeSignal 1#1 = .ok .reset ∧
  decodeSignal 0#1 = .error .notAsserted
end

