-- ==== Sys2Proof/Laws/State.lean ====
section
/-! SUPPORT. One lemma for each field of State after each named update, true by rfl, so that no later proof
unfolds a record update. -/

namespace Sys2Proof.Machine

variable (s : State)

@[simp] theorem State.setAcc_cfg (ch : Channel) (v : Int) : (s.setAcc ch v).cfg = s.cfg := rfl
@[simp] theorem State.setAcc_acc (ch : Channel) (v : Int) : (s.setAcc ch v).acc = s.acc.set ch (BitVec.ofInt 16 v) := rfl
@[simp] theorem State.setAcc_phase (ch : Channel) (v : Int) : (s.setAcc ch v).phase = s.phase := rfl
@[simp] theorem State.setAcc_phaseValid (ch : Channel) (v : Int) : (s.setAcc ch v).phaseValid = s.phaseValid := rfl
@[simp] theorem State.setAcc_prev (ch : Channel) (v : Int) : (s.setAcc ch v).prev = s.prev := rfl
@[simp] theorem State.setAcc_fps (ch : Channel) (v : Int) : (s.setAcc ch v).fps = s.fps := rfl
@[simp] theorem State.setAcc_fch (ch : Channel) (v : Int) : (s.setAcc ch v).fch = s.fch := rfl
@[simp] theorem State.setAcc_fhi (ch : Channel) (v : Int) : (s.setAcc ch v).fhi = s.fhi := rfl
@[simp] theorem State.setAcc_pend (ch : Channel) (v : Int) : (s.setAcc ch v).pend = s.pend := rfl
@[simp] theorem State.setAcc_refusal (ch : Channel) (v : Int) : (s.setAcc ch v).refusal = s.refusal := rfl
@[simp] theorem State.setAcc_port (ch : Channel) (v : Int) : (s.setAcc ch v).port = s.port := rfl
@[simp] theorem State.setAcc_resetLine (ch : Channel) (v : Int) : (s.setAcc ch v).resetLine = s.resetLine := rfl
@[simp] theorem State.setAcc_hostQueue (ch : Channel) (v : Int) : (s.setAcc ch v).hostQueue = s.hostQueue := rfl
@[simp] theorem State.setAcc_turns (ch : Channel) (v : Int) : (s.setAcc ch v).turns = s.turns := rfl
@[simp] theorem State.setAcc_schedule (ch : Channel) (v : Int) : (s.setAcc ch v).schedule = s.schedule := rfl
@[simp] theorem State.setAcc_delivered (ch : Channel) (v : Int) : (s.setAcc ch v).delivered = s.delivered := rfl
@[simp] theorem State.setAcc_ret (ch : Channel) (v : Int) : (s.setAcc ch v).ret = s.ret := rfl

@[simp] theorem State.setPhase_cfg (ch : Channel) (p : BitVec 2) : (s.setPhase ch p).cfg = s.cfg := rfl
@[simp] theorem State.setPhase_acc (ch : Channel) (p : BitVec 2) : (s.setPhase ch p).acc = s.acc := rfl
@[simp] theorem State.setPhase_phase (ch : Channel) (p : BitVec 2) : (s.setPhase ch p).phase = s.phase.set ch p := rfl
@[simp] theorem State.setPhase_phaseValid (ch : Channel) (p : BitVec 2) : (s.setPhase ch p).phaseValid = s.phaseValid := rfl
@[simp] theorem State.setPhase_prev (ch : Channel) (p : BitVec 2) : (s.setPhase ch p).prev = s.prev := rfl
@[simp] theorem State.setPhase_fps (ch : Channel) (p : BitVec 2) : (s.setPhase ch p).fps = s.fps := rfl
@[simp] theorem State.setPhase_fch (ch : Channel) (p : BitVec 2) : (s.setPhase ch p).fch = s.fch := rfl
@[simp] theorem State.setPhase_fhi (ch : Channel) (p : BitVec 2) : (s.setPhase ch p).fhi = s.fhi := rfl
@[simp] theorem State.setPhase_pend (ch : Channel) (p : BitVec 2) : (s.setPhase ch p).pend = s.pend := rfl
@[simp] theorem State.setPhase_refusal (ch : Channel) (p : BitVec 2) : (s.setPhase ch p).refusal = s.refusal := rfl
@[simp] theorem State.setPhase_port (ch : Channel) (p : BitVec 2) : (s.setPhase ch p).port = s.port := rfl
@[simp] theorem State.setPhase_resetLine (ch : Channel) (p : BitVec 2) : (s.setPhase ch p).resetLine = s.resetLine := rfl
@[simp] theorem State.setPhase_hostQueue (ch : Channel) (p : BitVec 2) : (s.setPhase ch p).hostQueue = s.hostQueue := rfl
@[simp] theorem State.setPhase_turns (ch : Channel) (p : BitVec 2) : (s.setPhase ch p).turns = s.turns := rfl
@[simp] theorem State.setPhase_schedule (ch : Channel) (p : BitVec 2) : (s.setPhase ch p).schedule = s.schedule := rfl
@[simp] theorem State.setPhase_delivered (ch : Channel) (p : BitVec 2) : (s.setPhase ch p).delivered = s.delivered := rfl
@[simp] theorem State.setPhase_ret (ch : Channel) (p : BitVec 2) : (s.setPhase ch p).ret = s.ret := rfl

@[simp] theorem State.setPrev_cfg (ch : Channel) (v : Half) : (s.setPrev ch v).cfg = s.cfg := rfl
@[simp] theorem State.setPrev_acc (ch : Channel) (v : Half) : (s.setPrev ch v).acc = s.acc := rfl
@[simp] theorem State.setPrev_phase (ch : Channel) (v : Half) : (s.setPrev ch v).phase = s.phase := rfl
@[simp] theorem State.setPrev_phaseValid (ch : Channel) (v : Half) : (s.setPrev ch v).phaseValid = s.phaseValid := rfl
@[simp] theorem State.setPrev_prev (ch : Channel) (v : Half) : (s.setPrev ch v).prev = s.prev.set ch v := rfl
@[simp] theorem State.setPrev_fps (ch : Channel) (v : Half) : (s.setPrev ch v).fps = s.fps := rfl
@[simp] theorem State.setPrev_fch (ch : Channel) (v : Half) : (s.setPrev ch v).fch = s.fch := rfl
@[simp] theorem State.setPrev_fhi (ch : Channel) (v : Half) : (s.setPrev ch v).fhi = s.fhi := rfl
@[simp] theorem State.setPrev_pend (ch : Channel) (v : Half) : (s.setPrev ch v).pend = s.pend := rfl
@[simp] theorem State.setPrev_refusal (ch : Channel) (v : Half) : (s.setPrev ch v).refusal = s.refusal := rfl
@[simp] theorem State.setPrev_port (ch : Channel) (v : Half) : (s.setPrev ch v).port = s.port := rfl
@[simp] theorem State.setPrev_resetLine (ch : Channel) (v : Half) : (s.setPrev ch v).resetLine = s.resetLine := rfl
@[simp] theorem State.setPrev_hostQueue (ch : Channel) (v : Half) : (s.setPrev ch v).hostQueue = s.hostQueue := rfl
@[simp] theorem State.setPrev_turns (ch : Channel) (v : Half) : (s.setPrev ch v).turns = s.turns := rfl
@[simp] theorem State.setPrev_schedule (ch : Channel) (v : Half) : (s.setPrev ch v).schedule = s.schedule := rfl
@[simp] theorem State.setPrev_delivered (ch : Channel) (v : Half) : (s.setPrev ch v).delivered = s.delivered := rfl
@[simp] theorem State.setPrev_ret (ch : Channel) (v : Half) : (s.setPrev ch v).ret = s.ret := rfl

@[simp] theorem State.out_cfg (items : List OutItem) : (s.out items).cfg = s.cfg := rfl
@[simp] theorem State.out_acc (items : List OutItem) : (s.out items).acc = s.acc := rfl
@[simp] theorem State.out_phase (items : List OutItem) : (s.out items).phase = s.phase := rfl
@[simp] theorem State.out_phaseValid (items : List OutItem) : (s.out items).phaseValid = s.phaseValid := rfl
@[simp] theorem State.out_prev (items : List OutItem) : (s.out items).prev = s.prev := rfl
@[simp] theorem State.out_fps (items : List OutItem) : (s.out items).fps = s.fps := rfl
@[simp] theorem State.out_fch (items : List OutItem) : (s.out items).fch = s.fch := rfl
@[simp] theorem State.out_fhi (items : List OutItem) : (s.out items).fhi = s.fhi := rfl
@[simp] theorem State.out_pend (items : List OutItem) : (s.out items).pend = s.pend ++ items := rfl
@[simp] theorem State.out_refusal (items : List OutItem) : (s.out items).refusal = s.refusal := rfl
@[simp] theorem State.out_port (items : List OutItem) : (s.out items).port = s.port := rfl
@[simp] theorem State.out_resetLine (items : List OutItem) : (s.out items).resetLine = s.resetLine := rfl
@[simp] theorem State.out_hostQueue (items : List OutItem) : (s.out items).hostQueue = s.hostQueue := rfl
@[simp] theorem State.out_turns (items : List OutItem) : (s.out items).turns = s.turns := rfl
@[simp] theorem State.out_schedule (items : List OutItem) : (s.out items).schedule = s.schedule := rfl
@[simp] theorem State.out_delivered (items : List OutItem) : (s.out items).delivered = s.delivered := rfl
@[simp] theorem State.out_ret (items : List OutItem) : (s.out items).ret = s.ret := rfl

@[simp] theorem State.recordRefusal_cfg (r : RefusalReason) : (s.recordRefusal r).cfg = s.cfg := rfl
@[simp] theorem State.recordRefusal_acc (r : RefusalReason) : (s.recordRefusal r).acc = s.acc := rfl
@[simp] theorem State.recordRefusal_phase (r : RefusalReason) : (s.recordRefusal r).phase = s.phase := rfl
@[simp] theorem State.recordRefusal_phaseValid (r : RefusalReason) : (s.recordRefusal r).phaseValid = s.phaseValid := rfl
@[simp] theorem State.recordRefusal_prev (r : RefusalReason) : (s.recordRefusal r).prev = s.prev := rfl
@[simp] theorem State.recordRefusal_fps (r : RefusalReason) : (s.recordRefusal r).fps = s.fps := rfl
@[simp] theorem State.recordRefusal_fch (r : RefusalReason) : (s.recordRefusal r).fch = s.fch := rfl
@[simp] theorem State.recordRefusal_fhi (r : RefusalReason) : (s.recordRefusal r).fhi = s.fhi := rfl
@[simp] theorem State.recordRefusal_pend (r : RefusalReason) : (s.recordRefusal r).pend = s.pend := rfl
@[simp] theorem State.recordRefusal_refusal (r : RefusalReason) : (s.recordRefusal r).refusal = s.refusal.or (some r) := rfl
@[simp] theorem State.recordRefusal_port (r : RefusalReason) : (s.recordRefusal r).port = s.port := rfl
@[simp] theorem State.recordRefusal_resetLine (r : RefusalReason) : (s.recordRefusal r).resetLine = s.resetLine := rfl
@[simp] theorem State.recordRefusal_hostQueue (r : RefusalReason) : (s.recordRefusal r).hostQueue = s.hostQueue := rfl
@[simp] theorem State.recordRefusal_turns (r : RefusalReason) : (s.recordRefusal r).turns = s.turns := rfl
@[simp] theorem State.recordRefusal_schedule (r : RefusalReason) : (s.recordRefusal r).schedule = s.schedule := rfl
@[simp] theorem State.recordRefusal_delivered (r : RefusalReason) : (s.recordRefusal r).delivered = s.delivered := rfl
@[simp] theorem State.recordRefusal_ret (r : RefusalReason) : (s.recordRefusal r).ret = s.ret := rfl

@[simp] theorem State.consume_cfg : s.consume.cfg = s.cfg := rfl
@[simp] theorem State.consume_acc : s.consume.acc = s.acc := rfl
@[simp] theorem State.consume_phase : s.consume.phase = s.phase := rfl
@[simp] theorem State.consume_phaseValid : s.consume.phaseValid = s.phaseValid := rfl
@[simp] theorem State.consume_prev : s.consume.prev = s.prev := rfl
@[simp] theorem State.consume_fps : s.consume.fps = s.fps := rfl
@[simp] theorem State.consume_fch : s.consume.fch = s.fch := rfl
@[simp] theorem State.consume_fhi : s.consume.fhi = s.fhi := rfl
@[simp] theorem State.consume_pend : s.consume.pend = s.pend := rfl
@[simp] theorem State.consume_refusal : s.consume.refusal = s.refusal := rfl
@[simp] theorem State.consume_port : s.consume.port = none := rfl
@[simp] theorem State.consume_resetLine : s.consume.resetLine = s.resetLine := rfl
@[simp] theorem State.consume_hostQueue : s.consume.hostQueue = s.hostQueue := rfl
@[simp] theorem State.consume_turns : s.consume.turns = s.turns := rfl
@[simp] theorem State.consume_schedule : s.consume.schedule = s.schedule := rfl
@[simp] theorem State.consume_delivered : s.consume.delivered = s.delivered := rfl
@[simp] theorem State.consume_ret : s.consume.ret = s.ret := rfl

@[simp] theorem State.endTurn_cfg : s.endTurn.cfg = s.cfg := rfl
@[simp] theorem State.endTurn_acc : s.endTurn.acc = s.acc := rfl
@[simp] theorem State.endTurn_phase : s.endTurn.phase = s.phase := rfl
@[simp] theorem State.endTurn_phaseValid : s.endTurn.phaseValid = s.phaseValid := rfl
@[simp] theorem State.endTurn_prev : s.endTurn.prev = s.prev := rfl
@[simp] theorem State.endTurn_fps : s.endTurn.fps = s.fps := rfl
@[simp] theorem State.endTurn_fch : s.endTurn.fch = s.fch := rfl
@[simp] theorem State.endTurn_fhi : s.endTurn.fhi = s.fhi := rfl
@[simp] theorem State.endTurn_pend : s.endTurn.pend = s.pend := rfl
@[simp] theorem State.endTurn_refusal : s.endTurn.refusal = s.refusal := rfl
@[simp] theorem State.endTurn_port : s.endTurn.port = s.port := rfl
@[simp] theorem State.endTurn_resetLine : s.endTurn.resetLine = s.resetLine := rfl
@[simp] theorem State.endTurn_hostQueue : s.endTurn.hostQueue = s.hostQueue := rfl
@[simp] theorem State.endTurn_turns : s.endTurn.turns = s.turns.tail := rfl
@[simp] theorem State.endTurn_schedule :
    s.endTurn.schedule = if s.turns = [] then s.schedule.advance else s.schedule := rfl
@[simp] theorem State.endTurn_delivered : s.endTurn.delivered = s.delivered := rfl
@[simp] theorem State.endTurn_ret : s.endTurn.ret = s.ret := rfl

end Sys2Proof.Machine
end

