-- ==== Sys2Proof/Laws/Accumulator.lean ====
section
/-! SUPPORT. What the accumulator's operations do, once each: reading after writing, saturation, SATADD, the
EDGE operations and the drains. -/

namespace Sys2Proof.Machine

theorem sat_bounds (v : Int) : -127 ≤ sat v ∧ sat v ≤ 127 := by
  simp only [sat, SAT]; omega

theorem sat_of_bounded {v : Int} (h : -127 ≤ v ∧ v ≤ 127) : sat v = v := by
  simp only [sat, SAT]; omega

/-- A 16-bit register holds any value in [-32768, 32767] exactly. -/
theorem toInt_ofInt_half {v : Int} (h : -32768 ≤ v ∧ v ≤ 32767) : (BitVec.ofInt 16 v).toInt = v := by
  rw [BitVec.toInt_ofInt]
  simp only [Int.bmod_def]
  omega

theorem State.accVal_setAcc_self (s : State) (ch : Channel) {v : Int} (h : -32768 ≤ v ∧ v ≤ 32767) :
    (s.setAcc ch v).accVal ch = v := by
  simp [State.accVal, State.setAcc, toInt_ofInt_half h]

theorem State.accVal_setAcc_ne (s : State) {ch c : Channel} (v : Int) (h : c ≠ ch) :
    (s.setAcc ch v).accVal c = s.accVal c := by
  have : (ch : Nat) ≠ c := fun e => h (Fin.ext e.symm)
  simp [State.accVal, State.setAcc, this]

/-- Writing back the value a register holds changes nothing. -/
theorem State.setAcc_accVal (s : State) (ch : Channel) : s.setAcc ch (s.accVal ch) = s := by
  simp [State.setAcc, State.accVal, BitVec.ofInt_toInt]

/-- SATADD: everything it can do. -/
theorem satAdd_spec (ch : Channel) (d : Int) (s : State) :
    (satAdd ch d s).accVal ch = sat (s.accVal ch + d) ∧ AccOnly ch s (satAdd ch d s) := by
  have hb := sat_bounds (s.accVal ch + d)
  exact ⟨s.accVal_setAcc_self ch (by omega),
    fun c hc => s.accVal_setAcc_ne _ hc, rfl⟩

/-- The edge a transition index selects: everything it can do. -/
theorem edgeOp_spec (t : BitVec 4) (ch : Channel) (s : State) :
    (edgeOp t ch s).accVal ch =
      (match edgeKind t with
        | .inc => sat (s.accVal ch + 1)
        | .dec => sat (s.accVal ch + -1)
        | .skip => s.accVal ch
        | .none => s.accVal ch) ∧ AccOnly ch s (edgeOp t ch s) := by
  unfold edgeOp
  cases edgeKind t with
  | none => exact ⟨rfl, fun _ _ => rfl, rfl⟩
  | skip => exact ⟨rfl, fun _ _ => rfl, rfl⟩
  | inc => exact satAdd_spec ch 1 s
  | dec => exact satAdd_spec ch (-1) s

/-- The drain over a list of channels without repeats: what it returns, and which accumulators it clears. -/
theorem drainFrom_spec (l : List Channel) (hl : l.Nodup) (s : State) :
    (drainFrom l s).1 = (l.filter fun ch => decide (s.accVal ch ≠ 0)).map (fun ch => (ch, s.accVal ch)) ∧
    (∀ c : Channel, (drainFrom l s).2.accVal c = if c ∈ l then 0 else s.accVal c) ∧
    (drainFrom l s).2 = { s with acc := (drainFrom l s).2.acc } := by
  induction l generalizing s with
  | nil => exact ⟨rfl, fun c => by simp [drainFrom], rfl⟩
  | cons ch rest ih =>
    obtain ⟨hch, hrest⟩ := List.nodup_cons.mp hl
    by_cases h0 : s.accVal ch = 0
    · obtain ⟨h1, h2, h3⟩ := ih hrest s
      rw [drainFrom, if_pos h0]
      refine ⟨by rw [h1]; simp [h0], fun c => ?_, h3⟩
      rw [h2 c]
      by_cases hc : c = ch
      · simp [hc, h0]
      · simp [hc]
    · obtain ⟨h1, h2, h3⟩ := ih hrest (s.setAcc ch 0)
      have hne : ∀ c ∈ rest, (s.setAcc ch 0).accVal c = s.accVal c := fun c hc =>
        s.accVal_setAcc_ne 0 (fun e => hch (e ▸ hc))
      rw [drainFrom, if_neg h0]
      refine ⟨?_, fun c => ?_, by simp only; rw [h3]; rfl⟩
      · simp only [h1, List.filter_cons, ne_eq, h0, not_false_eq_true, decide_true, if_true, List.map_cons]
        congr 1
        rw [List.filter_congr (q := fun c => decide (s.accVal c ≠ 0)) (fun c hc => by simp [hne c hc])]
        exact List.map_congr_left fun c hc => by rw [hne c (List.mem_filter.mp hc).1]
      · simp only [h2 c]
        by_cases hc : c = ch
        · subst hc; simp [hch, s.accVal_setAcc_self c (v := 0) (by omega)]
        · simp [hc, s.accVal_setAcc_ne 0 hc]

theorem channels_nodup : channels.Nodup := by decide

theorem mem_channels (ch : Channel) : ch ∈ channels := by revert ch; decide

/-- DRAIN_ALL: what it returns, that every accumulator is then 0, and that nothing else changes. -/
theorem drainAll_spec (s : State) :
    (drainAll s).1 =
      (channels.filter fun ch => decide (s.accVal ch ≠ 0)).map (fun ch => (ch, s.accVal ch)) ∧
    (∀ c : Channel, (drainAll s).2.accVal c = 0) ∧
    (drainAll s).2 = { s with acc := (drainAll s).2.acc } := by
  obtain ⟨h1, h2, h3⟩ := drainFrom_spec channels channels_nodup s
  exact ⟨h1, fun c => by rw [drainAll, h2 c, if_pos (mem_channels c)], h3⟩

/-- DRAIN_ONE: the value, the cleared accumulator, and that nothing else changes. -/
theorem drainOne_spec (ch : Channel) (s : State) :
    (drainOne ch s).1 = s.accVal ch ∧ (drainOne ch s).2.accVal ch = 0 ∧ AccOnly ch s (drainOne ch s).2 :=
  ⟨rfl, s.accVal_setAcc_self ch (by omega), fun _ hc => s.accVal_setAcc_ne 0 hc, rfl⟩

end Sys2Proof.Machine
end

