-- ==== Sys2Proof/Laws/Decode.lean ====
section
/-! SUPPORT. The fields of an event word and of a parser decode word, and what each event word decodes to. -/

namespace Sys2Proof

@[simp] theorem evKind_evWord (k : BitVec 2) (p1 p0 : Byte) : evKind (evWord k p1 p0) = k := by
  unfold evWord evKind
  apply BitVec.eq_of_getLsbD_eq
  intro i hi
  simp only [BitVec.getLsbD_extractLsb', BitVec.getLsbD_cast, BitVec.getLsbD_append, hi]
  have h1 : ¬ (16 + i < 8) := by omega
  have h2 : ¬ (16 + i - 8 < 8) := by omega
  have h3 : 16 + i - 8 - 8 = i := by omega
  simp [h1, h2, h3]
@[simp] theorem evP1_evWord (k : BitVec 2) (p1 p0 : Byte) : evP1 (evWord k p1 p0) = p1 := by
  unfold evWord evP1
  apply BitVec.eq_of_getLsbD_eq
  intro i hi
  simp only [BitVec.getLsbD_extractLsb', BitVec.getLsbD_cast, BitVec.getLsbD_append, hi]
  have h1 : ¬ (8 + i < 8) := by omega
  have h2 : 8 + i - 8 = i := by omega
  simp [h1, h2, hi]
@[simp] theorem evP0_evWord (k : BitVec 2) (p1 p0 : Byte) : evP0 (evWord k p1 p0) = p0 := by
  unfold evWord evP0
  apply BitVec.eq_of_getLsbD_eq
  intro i hi
  simp only [BitVec.getLsbD_extractLsb', BitVec.getLsbD_cast, BitVec.getLsbD_append, hi]
  simp [hi]
theorem evWord_fields (w : EventWord) : evWord (evKind w) (evP1 w) (evP0 w) = w := by
  unfold evWord evKind evP1 evP0
  apply BitVec.eq_of_getLsbD_eq
  intro i hi
  simp only [BitVec.getLsbD_extractLsb', BitVec.getLsbD_cast, BitVec.getLsbD_append]
  by_cases h1 : i < 8
  · simp [h1]
  · by_cases h2 : i - 8 < 8
    · have : 8 + (i - 8) = i := by omega
      simp [h1, h2, this]
    · have : 16 + (i - 8 - 8) = i := by omega
      have : i - 8 - 8 < 2 := by omega
      simp [*]
theorem parserWord_split (fps : BitVec 2) (byte : Byte) :
    (parserWord fps byte).extractLsb' 8 2 = fps ∧ (parserWord fps byte).extractLsb' 0 8 = byte := by
  unfold parserWord
  constructor <;> apply BitVec.eq_of_getLsbD_eq <;> intro i hi <;>
    simp only [BitVec.getLsbD_extractLsb', BitVec.getLsbD_cast, BitVec.getLsbD_append, hi]
  · have h1 : ¬ (8 + i < 8) := by omega
    have h2 : 8 + i - 8 = i := by omega
    simp [h1, h2]
  · simp [hi]
/-- The parser word's two fields, as its decoder reads them. -/
@[simp] theorem parserWord_fps (fps : BitVec 2) (byte : Byte) : (parserWord fps byte).extractLsb' 8 2 = fps :=
  (parserWord_split fps byte).1

@[simp] theorem parserWord_byte (fps : BitVec 2) (byte : Byte) : (parserWord fps byte).extractLsb' 0 8 = byte :=
  (parserWord_split fps byte).2

/-- An event word is its KIND and payload, so each decoded operation names its word. -/
theorem decodeEv_cases {w : EventWord} {i : Instr} (h : decodeEv w = .ok i) :
    (∃ a b, w = evWord 0b00#2 b a ∧ i = .scan a b) ∨
    (∃ byte, w = evWord 0b01#2 0#8 byte ∧ i = .rx byte) ∨
    (w = evWord 0b10#2 0#8 0#8 ∧ i = .tick) ∨
    (∃ p1 p0, w = evWord 0b11#2 p1 p0 ∧ i = .reserved p1 p0) := by
  have hk : ∀ k : BitVec 2, k ≠ 0b00#2 → k ≠ 0b01#2 → k ≠ 0b10#2 → k = 0b11#2 := by decide
  have hw := evWord_fields w
  unfold decodeEv at h
  split at h
  next h0 => cases h; exact .inl ⟨_, _, by rw [← h0, hw], rfl⟩
  next h0 =>
    split at h
    next h1 =>
      split at h
      next hp => cases h; exact .inr (.inl ⟨_, by rw [← h1, ← hp, hw], rfl⟩)
      next => cases h
    next h1 =>
      split at h
      next h2 =>
        split at h
        next hp =>
          cases h
          refine .inr (.inr (.inl ⟨?_, rfl⟩))
          rw [← hw, h2, hp.1, hp.2]
        next => cases h
      next h2 => cases h; exact .inr (.inr (.inr ⟨_, _, by rw [← hk _ h0 h1 h2, hw], rfl⟩))

end Sys2Proof
end

