-- ==== Sys2Proof/Laws/Emitter.lean ====
section
/-! SUPPORT. What the emitter and the flush triggers do, once each: the chunk list, EMIT as one append, TICK,
FRAME_FLUSH and the completion of a frame. -/

namespace Sys2Proof.Machine

/-- One round of R72's loop takes at most CLAMP off a non-zero value, towards 0. -/
theorem chunk_step {r : Int} (h : r ≠ 0) :
    (r.sign * min (r.natAbs : Int) CLAMP).sign = r.sign ∧
    1 ≤ (r.sign * min (r.natAbs : Int) CLAMP).natAbs ∧
    (r.sign * min (r.natAbs : Int) CLAMP).natAbs ≤ 63 ∧
    (r - r.sign * min (r.natAbs : Int) CLAMP).natAbs + 1 ≤ r.natAbs := by
  rcases lt_or_gt_of_ne h with h | h
  · rw [Int.sign_eq_neg_one_of_neg h]
    have : (-1 * min (r.natAbs : Int) CLAMP) < 0 := by simp only [CLAMP]; omega
    refine ⟨Int.sign_eq_neg_one_of_neg this, ?_, ?_, ?_⟩ <;> simp only [CLAMP] <;> omega
  · rw [Int.sign_eq_one_of_pos h]
    have : 0 < (1 * min (r.natAbs : Int) CLAMP) := by simp only [CLAMP]; omega
    refine ⟨Int.sign_eq_one_of_pos this, ?_, ?_, ?_⟩ <;> simp only [CLAMP] <;> omega

theorem chunks_zero : chunks 0 = [] := rfl

/-- The pieces of a non-zero value: there is one. -/
theorem chunks_ne_nil {v : Int} (h : v ≠ 0) : chunks v ≠ [] := by
  unfold chunks
  obtain ⟨n, hn⟩ : ∃ n, v.natAbs = n + 1 := ⟨v.natAbs - 1, by omega⟩
  rw [hn, chunksFrom, if_neg h]
  exact List.cons_ne_nil _ _

/-- EMIT appends one CC item for each piece and does nothing else (R73). -/
theorem emit_eq_out (ch : Channel) (v : Int) (s : State) :
    emit ch v s = s.out ((chunks v).map (itemOf s.cfg ch)) := by
  have hitem : itemOf s.cfg ch = fun k => itemOf s.cfg ch k := rfl
  unfold emit emitSingle emitDual
  rw [hitem]
  cases h : s.cfg.ccMode <;> simp only [itemOf, h]

/-- Emitting a drained list appends the items of every entry in order and does nothing else. -/
theorem emitAll_eq_out (l : List (Channel × Int)) (s : State) :
    emitAll l s = s.out (l.flatMap fun p => (chunks p.2).map (itemOf s.cfg p.1)) := by
  unfold emitAll
  induction l generalizing s with
  | nil => simp [State.out]
  | cons p rest ih => rw [List.foldl_cons, ih, emit_eq_out]; simp [State.out]

/-- FRAME_FLUSH: everything it can do (R79). -/
theorem frameFlush_spec (ch : Channel) (s : State) :
    frameFlush ch s = (s.setAcc ch 0).out (reportOf s.cfg ch (s.accVal ch)) := by
  unfold frameFlush reportOf
  simp only [drainOne, emit_eq_out]
  by_cases h : s.accVal ch = 0
  · simp [h, chunks_zero]
  · simp [h, State.out]

/-- TICK: everything it can do (R78). -/
theorem tick_spec (s : State) :
    (∀ c : Channel, (tick s).accVal c = 0) ∧
    (tick s).pend = s.pend ++
      ((channels.filter fun ch => decide (s.accVal ch ≠ 0)).flatMap fun ch =>
        (chunks (s.accVal ch)).map (itemOf s.cfg ch)) ++
      (if ∀ ch : Channel, s.accVal ch = 0 then [] else [.flush]) ∧
    tick s = { s with acc := (tick s).acc, pend := (tick s).pend } := by
  obtain ⟨h1, h2, h3⟩ := drainAll_spec s
  have hcfg : (drainAll s).2.cfg = s.cfg := by rw [h3]
  have hpend : (drainAll s).2.pend = s.pend := by rw [h3]
  have hnil : (drainAll s).1 = [] ↔ ∀ ch : Channel, s.accVal ch = 0 := by
    rw [h1, List.map_eq_nil_iff, List.filter_eq_nil_iff]
    exact ⟨fun h ch => by simpa using h ch (mem_channels ch), fun h ch _ => by simp [h ch]⟩
  have hitems : ((drainAll s).1.flatMap fun p => (chunks p.2).map (itemOf s.cfg p.1)) =
      ((channels.filter fun ch => decide (s.accVal ch ≠ 0)).flatMap fun ch =>
        (chunks (s.accVal ch)).map (itemOf s.cfg ch)) := by
    rw [h1, List.flatMap_map]
  by_cases h : ∀ ch : Channel, s.accVal ch = 0
  · have : tick s = (drainAll s).2.out ((drainAll s).1.flatMap fun p => (chunks p.2).map (itemOf s.cfg p.1)) := by
      simp only [tick, if_pos (hnil.mpr h), emitAll_eq_out, hcfg]
    rw [this, if_pos h]
    refine ⟨h2, by simp [hpend, hitems], by rw [h3]; rfl⟩
  · have : tick s = (drainAll s).2.out
        (((drainAll s).1.flatMap fun p => (chunks p.2).map (itemOf s.cfg p.1)) ++ [.flush]) := by
      simp only [tick, if_neg (mt hnil.mp h), emitAll_eq_out, hcfg]
      simp [State.out]
    rw [this, if_neg h]
    refine ⟨h2, by simp [hpend, hitems], by rw [h3]; rfl⟩

/-- The completion of a frame: everything it can do (R69). -/
theorem completeFrame_spec (lo : Byte) (s : State) :
    completeFrame lo s =
      { s with
        acc := s.acc.set (channelOf s.fch) 0#16
        prev := s.prev.set (channelOf s.fch) (frameValue s.fhi lo)
        fps := 0b00#2
        pend := s.pend ++ reportOf s.cfg (channelOf s.fch)
          (sat (s.accVal (channelOf s.fch) + delta16 (frameValue s.fhi lo) s.prev[channelOf s.fch])) } := by
  obtain ⟨h1, -, h2⟩ := satAdd_spec (channelOf s.fch)
    (delta16 (frameValue s.fhi lo) s.prev[channelOf s.fch]) s
  simp only [completeFrame, frameFlush_spec]
  have hacc : ∀ t : State, ({ t with fps := 0b00#2 } : State).accVal (channelOf s.fch) =
    t.accVal (channelOf s.fch) := fun _ => rfl
  have hprev : ∀ (t : State) (v : Half), (t.setPrev (channelOf s.fch) v).accVal (channelOf s.fch) =
    t.accVal (channelOf s.fch) := fun _ _ => rfl
  rw [hacc, hprev]
  simp only [applyDelta, h1]
  simp [State.out, State.setAcc, State.setPrev, satAdd]

end Sys2Proof.Machine
end

