-- ==== Sys2Proof/Laws/Operands.lean ====
section
/-! SUPPORT. The small facts of the operand computations: the bits of a phase, the value of a frame, the
parser word's decoding. -/

namespace Sys2Proof.Machine

@[simp] theorem newPhase_bit_a (a b : Byte) (ch : Channel) : (newPhase a b ch).getLsbD 0 = a.getLsbD ch := by
  unfold newPhase
  cases a.getLsbD ch <;> cases b.getLsbD ch <;> decide

@[simp] theorem newPhase_bit_b (a b : Byte) (ch : Channel) : (newPhase a b ch).getLsbD 1 = b.getLsbD ch := by
  unfold newPhase
  cases a.getLsbD ch <;> cases b.getLsbD ch <;> decide

/-- The four phases, and the four values of FPS. -/
theorem twoBit_cases (p : BitVec 2) : p = 0b00#2 ∨ p = 0b01#2 ∨ p = 0b10#2 ∨ p = 0b11#2 := by
  revert p; decide

/-- A phase that did not change selects no edge. -/
theorem edgeKind_same (p : BitVec 2) : edgeKind (transitionIndex p p) = .none := by
  revert p; decide

theorem isChannelByte_iff (byte : Byte) : isChannelByte byte = true ↔ 0x30 ≤ byte.toNat ∧ byte.toNat ≤ 0x37 := by
  revert byte; decide

/-- The high byte of a frame's value is its first data byte, the low byte its second. -/
theorem frameValue_toNat (hi lo : Byte) : (frameValue hi lo).toNat = 256 * hi.toNat + lo.toNat := by
  have := lo.isLt
  simp only [frameValue, BitVec.toNat_cast, BitVec.toNat_append]
  rw [← Nat.shiftLeft_add_eq_or_of_lt this, Nat.shiftLeft_eq]; omega

/-- Decoding {FPS, byte}, field by field. -/
theorem decodePd_parserWord (fps : BitVec 2) (byte : Byte) :
    decodePd (parserWord fps byte) =
      if fps = 0b00#2 then (if isChannelByte byte then .rxChan (channelField byte) else .rxDiscard byte)
      else if fps = 0b01#2 then .rxHigh byte
      else if fps = 0b10#2 then .rxLow byte
      else .rxUnreachable byte := by
  simp only [decodePd, parserWord_fps, parserWord_byte]

end Sys2Proof.Machine
end

