-- ==== Sys2Proof/Laws/PerInstr.lean ====
section
/-! SUPPORT. One statement made per operation: the encoding of a well-formed operation is a well-formed word. -/

/-- The word of a well-formed operation has its operands in range. -/
def Sys2Proof.Laws.EncodedWf.Statement (i : Sys2Proof.Instr) : Prop :=
  i.wf = true → ∀ c, Sys2Proof.encode i = some c → c.wf = true

namespace Sys2Proof.Laws.EncodedWf

theorem scan (a b : Byte) : Statement (.scan a b) := by intro _ c e; cases e; rfl
theorem rx (byte : Byte) : Statement (.rx byte) := by intro _ c e; cases e; rfl
theorem tick : Statement .tick := by intro _ c e; cases e; rfl
theorem reserved (p1 p0 : Byte) : Statement (.reserved p1 p0) := by intro _ c e; cases e; rfl
theorem rxChan (ch : BitVec 3) : Statement (.rxChan ch) := by intro _ c e; cases e; rfl
theorem rxDiscard (byte : Byte) : Statement (.rxDiscard byte) := by intro _ c e; cases e; rfl
theorem rxHigh (hi : Byte) : Statement (.rxHigh hi) := by intro _ c e; cases e; rfl
theorem rxLow (lo : Byte) : Statement (.rxLow lo) := by intro _ c e; cases e; rfl
theorem rxUnreachable (byte : Byte) : Statement (.rxUnreachable byte) := by intro _ c e; cases e; rfl
theorem edgeNone0000 (ch : Channel) : Statement (.edgeNone0000 ch) := by intro _ c e; cases e; rfl
theorem edgeInc0001 (ch : Channel) : Statement (.edgeInc0001 ch) := by intro _ c e; cases e; rfl
theorem edgeDec0010 (ch : Channel) : Statement (.edgeDec0010 ch) := by intro _ c e; cases e; rfl
theorem edgeSkip0011 (ch : Channel) : Statement (.edgeSkip0011 ch) := by intro _ c e; cases e; rfl
theorem edgeDec0100 (ch : Channel) : Statement (.edgeDec0100 ch) := by intro _ c e; cases e; rfl
theorem edgeNone0101 (ch : Channel) : Statement (.edgeNone0101 ch) := by intro _ c e; cases e; rfl
theorem edgeSkip0110 (ch : Channel) : Statement (.edgeSkip0110 ch) := by intro _ c e; cases e; rfl
theorem edgeInc0111 (ch : Channel) : Statement (.edgeInc0111 ch) := by intro _ c e; cases e; rfl
theorem edgeInc1000 (ch : Channel) : Statement (.edgeInc1000 ch) := by intro _ c e; cases e; rfl
theorem edgeSkip1001 (ch : Channel) : Statement (.edgeSkip1001 ch) := by intro _ c e; cases e; rfl
theorem edgeNone1010 (ch : Channel) : Statement (.edgeNone1010 ch) := by intro _ c e; cases e; rfl
theorem edgeDec1011 (ch : Channel) : Statement (.edgeDec1011 ch) := by intro _ c e; cases e; rfl
theorem edgeSkip1100 (ch : Channel) : Statement (.edgeSkip1100 ch) := by intro _ c e; cases e; rfl
theorem edgeDec1101 (ch : Channel) : Statement (.edgeDec1101 ch) := by intro _ c e; cases e; rfl
theorem edgeInc1110 (ch : Channel) : Statement (.edgeInc1110 ch) := by intro _ c e; cases e; rfl
theorem edgeNone1111 (ch : Channel) : Statement (.edgeNone1111 ch) := by intro _ c e; cases e; rfl
theorem emitSingle (ch : Channel) (v : Int) : Statement (.emitSingle ch v) := by intro h c e; cases e; exact h
theorem emitDual (ch : Channel) (v : Int) : Statement (.emitDual ch v) := by intro h c e; cases e; exact h
theorem satAdd (ch : Channel) (d : Int) : Statement (.satAdd ch d) := by intro _ c e; cases e
theorem applyDelta (ch : Channel) (d : Int) : Statement (.applyDelta ch d) := by intro _ c e; cases e
theorem drainAll : Statement .drainAll := by intro _ c e; cases e
theorem drainOne (ch : Channel) : Statement (.drainOne ch) := by intro _ c e; cases e
theorem chunks (v : Int) : Statement (.chunks v) := by intro _ c e; cases e
theorem frameFlush (ch : Channel) : Statement (.frameFlush ch) := by intro _ c e; cases e
theorem reset : Statement .reset := by intro _ c e; cases e; rfl

end Sys2Proof.Laws.EncodedWf
end

