-- ==== Sys2Proof/Laws/Step.lean ====
section
/-! SUPPORT. What a step can do, said once: one channel of a SCAN, a whole SCAN, a taken event and a step of
the machine. Later proofs cite these and do not unfold `step`. -/

namespace Sys2Proof.Machine

/-- One channel of SCAN: its phase is the new one, its accumulator moves by its edge, nothing else changes. -/
theorem scanChannel_spec (a b : Byte) (s : State) (ch : Channel) :
    scanChannel a b s ch =
      (edgeOp (transitionIndex s.phase[ch] (newPhase a b ch)) ch s).setPhase ch (newPhase a b ch) := by
  unfold scanChannel
  by_cases h : newPhase a b ch = s.phase[ch]
  · have hk : ∀ p : BitVec 2, edgeKind (transitionIndex p p) = .none := by decide
    simp only [h, ne_eq, not_true_eq_false, if_false]
    rw [edgeOp, hk]
  · simp only [ne_eq, h, not_false_eq_true, if_true]

theorem State.phase_setPhase_ne (s : State) {ch c : Channel} (p : BitVec 2) (h : c ≠ ch) :
    (s.setPhase ch p).phase[c] = s.phase[c] := by
  have : (ch : Nat) ≠ c := fun e => h (Fin.ext e.symm)
  simp [State.setPhase, this]

/-- The loop of SCAN over a list of channels without repeats. -/
theorem scanFold_spec (a b : Byte) (l : List Channel) (hl : l.Nodup) (s : State) :
    (∀ c : Channel, (l.foldl (scanChannel a b) s).phase[c] = if c ∈ l then newPhase a b c else s.phase[c]) ∧
    (∀ c : Channel, (l.foldl (scanChannel a b) s).accVal c =
      if c ∈ l then (edgeOp (transitionIndex s.phase[c] (newPhase a b c)) c s).accVal c else s.accVal c) ∧
    l.foldl (scanChannel a b) s =
      { s with acc := (l.foldl (scanChannel a b) s).acc, phase := (l.foldl (scanChannel a b) s).phase } := by
  induction l generalizing s with
  | nil => simp
  | cons ch rest ih =>
    obtain ⟨hch, hrest⟩ := List.nodup_cons.mp hl
    obtain ⟨h1, h2, h3⟩ := ih hrest (scanChannel a b s ch)
    obtain ⟨-, e2, e3⟩ := edgeOp_spec (transitionIndex s.phase[ch] (newPhase a b ch)) ch s
    have hphase : ∀ c : Channel, (scanChannel a b s ch).phase[c] =
        if c = ch then newPhase a b c else s.phase[c] := by
      intro c
      rw [scanChannel_spec]
      by_cases hc : c = ch
      · subst hc; simp
      · rw [State.phase_setPhase_ne _ _ hc, e3, if_neg hc]
    have hacc : ∀ c : Channel, (scanChannel a b s ch).accVal c =
        (edgeOp (transitionIndex s.phase[ch] (newPhase a b ch)) ch s).accVal c := by
      intro c; rw [scanChannel_spec]; rfl
    have hedge : ∀ (t : BitVec 4) (c : Channel), c ≠ ch →
        (edgeOp t c (scanChannel a b s ch)).accVal c = (edgeOp t c s).accVal c := by
      intro t c hc
      rw [(edgeOp_spec t c _).1, (edgeOp_spec t c s).1, hacc c, e2 c hc]
    refine ⟨fun c => ?_, fun c => ?_, ?_⟩
    · rw [List.foldl_cons, h1 c, hphase c]
      by_cases hc : c = ch <;> simp [hc]
    · rw [List.foldl_cons, h2 c]
      by_cases hc : c = ch
      · subst hc; simp [hch, hacc c]
      · simp only [List.mem_cons, hc, false_or]
        rw [hphase c, if_neg hc, hedge _ c hc, hacc c, e2 c hc]
    · rw [List.foldl_cons]
      generalize List.foldl (scanChannel a b) (scanChannel a b s ch) rest = u at h3 ⊢
      rw [scanChannel_spec, e3] at h3
      rw [h3]; rfl

/-- SCAN after the first: everything it can do (R54). -/
theorem scanEdges_spec (a b : Byte) (s : State) :
    (∀ c : Channel, (scanEdges a b s).phase[c] = newPhase a b c) ∧
    (∀ c : Channel, (scanEdges a b s).accVal c =
      (edgeOp (transitionIndex s.phase[c] (newPhase a b c)) c s).accVal c) ∧
    scanEdges a b s = { s with acc := (scanEdges a b s).acc, phase := (scanEdges a b s).phase } := by
  obtain ⟨h1, h2, h3⟩ := scanFold_spec a b channels channels_nodup s
  exact ⟨fun c => by rw [scanEdges, h1 c, if_pos (mem_channels c)],
    fun c => by rw [scanEdges, h2 c, if_pos (mem_channels c)], h3⟩

theorem primeFold_spec (a b : Byte) (l : List Channel) (s : State) :
    (∀ c : Channel, (l.foldl (fun t ch => t.setPhase ch (newPhase a b ch)) s).phase[c] =
      if c ∈ l then newPhase a b c else s.phase[c]) ∧
    l.foldl (fun t ch => t.setPhase ch (newPhase a b ch)) s =
      { s with phase := (l.foldl (fun t ch => t.setPhase ch (newPhase a b ch)) s).phase } := by
  induction l generalizing s with
  | nil => simp
  | cons ch rest ih =>
    obtain ⟨h1, h2⟩ := ih (s.setPhase ch (newPhase a b ch))
    refine ⟨fun c => ?_, by rw [List.foldl_cons, h2]; rfl⟩
    rw [List.foldl_cons, h1 c]
    by_cases hc : c = ch
    · subst hc; simp
    · rw [s.phase_setPhase_ne _ hc]; simp [hc]

/-- The first SCAN: everything it can do (R55). -/
theorem prime_spec (a b : Byte) (s : State) :
    (∀ c : Channel, (prime a b s).phase[c] = newPhase a b c) ∧
    prime a b s = { s with phase := (prime a b s).phase, phaseValid := true } := by
  obtain ⟨h1, h2⟩ := primeFold_spec a b channels s
  refine ⟨fun c => ?_, ?_⟩
  · have := h1 c
    rw [if_pos (mem_channels c)] at this
    exact this
  · conv => lhs; unfold prime
    rw [h2]; rfl


/-- SCAN: every outcome (R54). -/
theorem execScan_cases (a b : Byte) (s : State) :
    s.cfg.variant ≠ .quad ∧ execScan a b s = .refused (.because .wrongVariant) ∨
    s.cfg.variant = .quad ∧ s.phaseValid = true ∧ execScan a b s = .next (scanEdges a b s) ∨
    s.cfg.variant = .quad ∧ s.phaseValid = false ∧ execScan a b s = .next (prime a b s) := by
  unfold execScan
  by_cases hq : s.cfg.variant = .quad <;> cases hp : s.phaseValid <;> simp [hq]

/-- TICK: every outcome (R78). -/
theorem execTick_cases (s : State) :
    s.cfg.variant ≠ .quad ∧ execTick s = .refused (.because .wrongVariant) ∨
    s.cfg.variant = .quad ∧ configOk s.cfg = false ∧ execTick s = .refused (.because .badConfig) ∨
    s.cfg.variant = .quad ∧ configOk s.cfg = true ∧ execTick s = .next (tick s) := by
  unfold execTick withBase
  by_cases hq : s.cfg.variant = .quad <;> cases hp : configOk s.cfg <;> simp [hq]

/-- RX: every outcome (R65). -/
theorem execRx_cases (byte : Byte) (s : State) :
    s.cfg.variant ≠ .serial ∧ execRx byte s = .refused (.because .wrongVariant) ∨
    s.cfg.variant = .serial ∧ s.fps = 0b00#2 ∧ isChannelByte byte = true ∧
      execRx byte s = .next { s with fch := channelField byte, fps := 0b01#2 } ∨
    s.cfg.variant = .serial ∧ s.fps = 0b00#2 ∧ isChannelByte byte = false ∧ execRx byte s = .next s ∨
    s.cfg.variant = .serial ∧ s.fps = 0b01#2 ∧ execRx byte s = .next { s with fhi := byte, fps := 0b10#2 } ∨
    s.cfg.variant = .serial ∧ s.fps = 0b10#2 ∧ configOk s.cfg = false ∧
      execRx byte s = .refused (.because .badConfig) ∨
    s.cfg.variant = .serial ∧ s.fps = 0b10#2 ∧ configOk s.cfg = true ∧
      execRx byte s = .next (completeFrame byte s) ∨
    s.cfg.variant = .serial ∧ s.fps = 0b11#2 ∧ execRx byte s = .fault .unreachableParseState := by
  have hf : ∀ f : BitVec 2, f = 0b00#2 ∨ f = 0b01#2 ∨ f = 0b10#2 ∨ f = 0b11#2 := by decide
  unfold execRx
  by_cases hs : s.cfg.variant = .serial
  · obtain h | h | h | h := hf s.fps
    · cases hc : isChannelByte byte <;> simp [hs, h, execRxChan, execRxDiscard]
    · simp [hs, h, execRxHigh]
    · cases hc : configOk s.cfg <;> simp [hs, h, execRxLow, withBase, hc]
    · simp [hs, h, execRxUnreachable]
  · simp [hs]

/-- What taking an event can do when it answers a next state: a recorded refusal, or the effect of a SCAN or a
TICK under QUAD or of an RX under SERIAL. -/
theorem takeEvent_cases {w : EventWord} {s t : State} (h : takeEvent w s = .next t) :
    (∃ r, t = s.recordRefusal r) ∨
    (∃ a b, w = eventScan a b ∧ s.cfg.variant = .quad ∧
      (s.phaseValid = true ∧ t = scanEdges a b s ∨ s.phaseValid = false ∧ t = prime a b s)) ∨
    (w = eventTick ∧ s.cfg.variant = .quad ∧ configOk s.cfg = true ∧ t = tick s) ∨
    (∃ byte, w = eventRx byte ∧ s.cfg.variant = .serial ∧
      (s.fps = 0b00#2 ∧ isChannelByte byte = true ∧ t = { s with fch := channelField byte, fps := 0b01#2 } ∨
       s.fps = 0b00#2 ∧ isChannelByte byte = false ∧ t = s ∨
       s.fps = 0b01#2 ∧ t = { s with fhi := byte, fps := 0b10#2 } ∨
       s.fps = 0b10#2 ∧ configOk s.cfg = true ∧ t = completeFrame byte s)) := by
  unfold takeEvent at h
  split at h
  next i hd =>
    obtain ⟨a, b, hw, rfl⟩ | ⟨byte, hw, rfl⟩ | ⟨hw, rfl⟩ | ⟨p1, p0, hw, rfl⟩ := decodeEv_cases hd
    · change settle s (execScan a b s) = _ at h
      obtain ⟨h1, e⟩ | ⟨h1, h2, e⟩ | ⟨h1, h2, e⟩ := execScan_cases a b s <;> rw [e] at h <;>
        simp only [settle, Host.Outcome.next.injEq] at h <;> subst h
      · exact .inl ⟨_, rfl⟩
      · exact .inr (.inl ⟨a, b, hw, h1, .inl ⟨h2, rfl⟩⟩)
      · exact .inr (.inl ⟨a, b, hw, h1, .inr ⟨h2, rfl⟩⟩)
    · change settle s (execRx byte s) = _ at h
      obtain ⟨h1, e⟩ | ⟨h1, h2, h3, e⟩ | ⟨h1, h2, h3, e⟩ | ⟨h1, h2, e⟩ | ⟨h1, h2, h3, e⟩ | ⟨h1, h2, h3, e⟩ |
        ⟨h1, h2, e⟩ := execRx_cases byte s <;> rw [e] at h <;>
        simp only [settle, Host.Outcome.next.injEq, reduceCtorEq] at h <;> subst h
      · exact .inl ⟨_, rfl⟩
      · exact .inr (.inr (.inr ⟨byte, hw, h1, .inl ⟨h2, h3, rfl⟩⟩))
      · exact .inr (.inr (.inr ⟨byte, hw, h1, .inr (.inl ⟨h2, h3, rfl⟩)⟩))
      · exact .inr (.inr (.inr ⟨byte, hw, h1, .inr (.inr (.inl ⟨h2, rfl⟩))⟩))
      · exact .inl ⟨_, rfl⟩
      · exact .inr (.inr (.inr ⟨byte, hw, h1, .inr (.inr (.inr ⟨h2, h3, rfl⟩))⟩))
    · change settle s (execTick s) = _ at h
      obtain ⟨h1, e⟩ | ⟨h1, h2, e⟩ | ⟨h1, h2, e⟩ := execTick_cases s <;> rw [e] at h <;>
        simp only [settle, Host.Outcome.next.injEq] at h <;> subst h
      · exact .inl ⟨_, rfl⟩
      · exact .inl ⟨_, rfl⟩
      · exact .inr (.inr (.inl ⟨hw, h1, h2, rfl⟩))
    · cases h; exact .inl ⟨_, rfl⟩
  next => cases h; exact .inl ⟨_, rfl⟩

/-- What the Block can do on its turn when it answers a next state (R28, R84, R7). -/
theorem blockMove_cases {s t : State} (h : blockMove s = .next t) :
    t = s ∨
    (∃ w, s.port = some w ∧ s.pend = [] ∧ s.refusal = none ∧
      (configOk s.cfg = false ∧ t = s.recordRefusal .badConfig ∨
       configOk s.cfg = true ∧ takeEvent w s.consume = .next t)) := by
  unfold blockMove at h
  split at h
  next => exact .inl (Host.Outcome.next.inj h).symm
  next w hw =>
    by_cases h1 : (s.refusalRecorded || s.holding) = true
    · rw [if_pos h1] at h; exact .inl (Host.Outcome.next.inj h).symm
    · rw [if_neg h1] at h
      simp [State.refusalRecorded, State.holding] at h1
      by_cases h2 : configOk s.cfg = true
      · rw [if_pos h2] at h; exact .inr ⟨w, hw, h1.2, h1.1, .inr ⟨h2, h⟩⟩
      · rw [if_neg h2] at h
        exact .inr ⟨w, hw, h1.2, h1.1, .inl ⟨by simpa using h2, (Host.Outcome.next.inj h).symm⟩⟩

/-- A step without RESET is the move of the agent whose turn it is. -/
theorem step_of_line_low {s : State} (h : s.resetLine = false) :
    step s = match s.nextAgent with
      | .host => .next (hostMove s.endTurn)
      | .transport => .next (transportMove s.endTurn)
      | .block => blockMove s.endTurn := by
  unfold step; rw [h]; rfl

/-- What a step can do when it answers a next state: take RESET, or let the agent move whose turn it is. -/
theorem step_cases {s t : State} (h : step s = .next t) :
    (s.resetLine = true ∧ exec .reset { s with resetLine := false } = .next t) ∨
    (s.resetLine = false ∧
      (s.nextAgent = .host ∧ t = hostMove s.endTurn ∨
       s.nextAgent = .transport ∧ t = transportMove s.endTurn ∨
       s.nextAgent = .block ∧ blockMove s.endTurn = .next t)) := by
  cases hr : s.resetLine with
  | true => unfold step at h; rw [hr] at h; exact .inl ⟨rfl, h⟩
  | false =>
    rw [step_of_line_low hr] at h
    refine .inr ⟨rfl, ?_⟩
    cases ha : s.nextAgent with
    | host => rw [ha] at h; exact .inl ⟨rfl, (Host.Outcome.next.inj h).symm⟩
    | transport => rw [ha] at h; exact .inr (.inl ⟨rfl, (Host.Outcome.next.inj h).symm⟩)
    | block => rw [ha] at h; exact .inr (.inr ⟨rfl, h⟩)

/-- The runs of length n + 1 that begin with a next state. -/
theorem steps_of_next {n : Nat} {s t : State} (h : step s = .next t) : steps (n + 1) s = steps n t := by
  rw [steps, h]

theorem steps_one {s t : State} (h : step s = .next t) : steps 1 s = .next t := by
  rw [steps_of_next h]; rfl

/-- A run that answers a next state begins with a step that does. -/
theorem step_of_steps {n : Nat} {s t : State} (h : steps (n + 1) s = .next t) :
    ∃ u, step s = .next u ∧ steps n u = .next t := by
  rw [steps] at h
  cases e : step s with
  | next u => rw [e] at h; exact ⟨u, rfl, h⟩
  | fault f => rw [e] at h; cases h
  | refused r => rw [e] at h; cases h

/-- A run after a run. -/
theorem steps_add {m : Nat} {s t : State} (h : steps m s = .next t) (n : Nat) : steps (m + n) s = steps n t := by
  induction m generalizing s with
  | zero => cases h; rw [Nat.zero_add]
  | succ m ih =>
    obtain ⟨u, hu, h⟩ := step_of_steps h
    rw [Nat.add_right_comm, steps_of_next hu, ih h]

/-- A run that comes back to where it began can be made any number of times. -/
theorem steps_loop {p : Nat} {s : State} (h : steps p s = .next s) (k : Nat) : steps (k * p) s = .next s := by
  induction k with
  | zero => rw [Nat.zero_mul]; rfl
  | succ k ih => rw [Nat.succ_mul, steps_add ih, h]

/-- A run that loops through a state where agent a has the turn gives a the turn for ever. -/
theorem turnsForEver_of_loop {a : Agent} {k p : Nat} {s t : State} (hp : 0 < p) (hk : steps k s = .next t)
    (loop : steps p t = .next t) (ha : t.nextAgent = a) : TurnsForEver a s := fun n =>
  ⟨k + n * p, t, le_trans (Nat.le_mul_of_pos_right n hp) (Nat.le_add_left _ _),
    (steps_add hk _).trans (steps_loop loop n), ha⟩

/-- With turns laid down, the first of them is next. -/
theorem State.nextAgent_of_turns {s : State} {a : Agent} {l : List Agent} (h : s.turns = a :: l) :
    s.nextAgent = a := by unfold State.nextAgent; rw [h]
/-- Under the default schedule with no turns laid down, the state says who is next, and a turn uses up nothing. -/
theorem State.nextAgent_of_default {s : State} (h : s.turns = []) (hs : s.schedule = .byDefault) :
    s.nextAgent = s.defaultAgent ∧ s.endTurn = s := by
  obtain ⟨⟩ := s; cases h; cases hs; exact ⟨rfl, rfl⟩
/-- A round with no turns laid down: its first agent is next, and after its turn the same agents come round. -/
theorem State.nextAgent_of_round {s : State} {a : Agent} {l : List Agent} (h : s.turns = [])
    (hs : s.schedule = .round a l) :
    s.nextAgent = a ∧ s.endTurn.turns = [] ∧
      ∃ b r, s.endTurn.schedule = .round b r ∧ (b :: r).Perm (a :: l) := by
  refine ⟨by unfold State.nextAgent; rw [h, hs], by simp [h], ?_⟩
  rw [State.endTurn_schedule, if_pos h, hs]
  cases l with
  | nil => exact ⟨a, [], rfl, .refl _⟩
  | cons b r => exact ⟨b, r ++ [a], rfl, List.perm_append_singleton a (b :: r)⟩

/-- What a Host step can touch. -/
theorem hostMove_frame (s : State) :
    hostMove s = { s with
      port := (hostMove s).port, hostQueue := (hostMove s).hostQueue, resetLine := (hostMove s).resetLine } := by
  unfold hostMove; split <;> try rfl
  split <;> rfl
/-- What a Transport step can touch. -/
theorem transportMove_frame (s : State) :
    transportMove s = { s with pend := (transportMove s).pend, delivered := (transportMove s).delivered } := by
  unfold transportMove; split <;> rfl
/-- What taking an event never touches. -/
theorem takeEvent_frame {w : EventWord} {s t : State} (h : takeEvent w s = .next t) :
    t.cfg = s.cfg ∧ t.port = s.port ∧ t.resetLine = s.resetLine ∧ t.hostQueue = s.hostQueue ∧
    t.turns = s.turns ∧ t.schedule = s.schedule ∧ t.delivered = s.delivered ∧ t.ret = s.ret := by
  have K : ∀ u : State, t = u →
      (u.cfg = s.cfg ∧ u.port = s.port ∧ u.resetLine = s.resetLine ∧ u.hostQueue = s.hostQueue ∧
        u.turns = s.turns ∧ u.schedule = s.schedule ∧ u.delivered = s.delivered ∧ u.ret = s.ret) → _ := fun u e p => e ▸ p
  obtain ⟨r, e⟩ | ⟨a, b, -, -, ⟨-, e⟩ | ⟨-, e⟩⟩ | ⟨-, -, -, e⟩ | ⟨b, -, -, h⟩ := takeEvent_cases h
  · exact K _ e ⟨rfl, rfl, rfl, rfl, rfl, rfl, rfl, rfl⟩
  · exact K _ (e.trans (scanEdges_spec a b s).2.2) ⟨rfl, rfl, rfl, rfl, rfl, rfl, rfl, rfl⟩
  · exact K _ (e.trans (prime_spec a b s).2) ⟨rfl, rfl, rfl, rfl, rfl, rfl, rfl, rfl⟩
  · exact K _ (e.trans (tick_spec s).2.2) ⟨rfl, rfl, rfl, rfl, rfl, rfl, rfl, rfl⟩
  · obtain ⟨-, -, e⟩ | ⟨-, -, e⟩ | ⟨-, e⟩ | ⟨-, -, e⟩ := h
    · exact K _ e ⟨rfl, rfl, rfl, rfl, rfl, rfl, rfl, rfl⟩
    · exact K _ e ⟨rfl, rfl, rfl, rfl, rfl, rfl, rfl, rfl⟩
    · exact K _ e ⟨rfl, rfl, rfl, rfl, rfl, rfl, rfl, rfl⟩
    · exact K _ (e.trans (completeFrame_spec b s)) ⟨rfl, rfl, rfl, rfl, rfl, rfl, rfl, rfl⟩
/-- Taking an event only appends to PEND. -/
theorem takeEvent_pend {w : EventWord} {s t : State} (h : takeEvent w s = .next t) : s.pend <+: t.pend := by
  obtain ⟨r, rfl⟩ | ⟨a, b, -, -, ⟨-, rfl⟩ | ⟨-, rfl⟩⟩ | ⟨-, -, -, rfl⟩ | ⟨b, -, -, h⟩ := takeEvent_cases h
  · simp
  · rw [(scanEdges_spec a b s).2.2]
  · rw [(prime_spec a b s).2]
  · rw [(tick_spec s).2.1, List.append_assoc]; exact List.prefix_append _ _
  · obtain ⟨-, -, rfl⟩ | ⟨-, -, rfl⟩ | ⟨-, rfl⟩ | ⟨-, -, rfl⟩ := h
    · simp
    · simp
    · simp
    · rw [completeFrame_spec]; exact List.prefix_append _ _

end Sys2Proof.Machine
end

