-- ==== Sys2Proof/Tests/Slice0.lean ====
section
/-! SUPPORT. Small tests, expected results from spec/ (30_encoding.md, 95_test_vectors.md), and for every
obligation with hypotheses a state and operands that meet them all. -/

namespace Sys2Proof.Tests

open Sys2Proof Sys2Proof.Machine

/-! ### Well-formedness: each check refuses an ill-formed term -/

theorem test_wf_discard_of_channel_byte : (Instr.rxDiscard 0x33#8).wf = false := by decide
theorem test_wf_emit_single_range : (Instr.emitSingle 0 128).wf = false := by decide
theorem test_wf_emit_dual_range : (Instr.emitDual 0 (-128)).wf = false := by decide
theorem test_wf_chunks_range : (Instr.chunks 128).wf = false := by decide
theorem test_wf_satadd_range : (Instr.satAdd 0 32768).wf = false := by decide
theorem test_wf_apply_range : (Instr.applyDelta 0 (-32769)).wf = false := by decide
theorem test_wf_code_range : (Code.cfg 0#1 0 (-128)).wf = false := by decide
theorem test_wf_ok : (Instr.rxDiscard 0xB3#8).wf = true ∧ (Instr.satAdd 0 (-32768)).wf = true ∧
    (Instr.emitDual 7 (-127)).wf = true := by decide

/-! ### Decoding: words written out from 30_encoding.md -/

/-- EV = KIND(2) P1(8) P0(8), R38, R39. -/
theorem test_decode_ev :
    decode (.ev 0b00_00001111_11111111#18) = .ok (.scan 0xFF#8 0x0F#8) ∧
    decode (.ev 0b01_00000000_00110011#18) = .ok (.rx 0x33#8) ∧
    decode (.ev 0b10_00000000_00000000#18) = .ok .tick ∧
    decode (.ev 0b11_10000000_00000001#18) = .ok (.reserved 0x80#8 0x01#8) := by decide

/-- Vectors X-2 and X-3, and a TICK with a bit of P1 set: R41, R42. -/
theorem test_decode_ev_padding :
    decode (.ev 0x10133#18) = .error .rxPadding ∧ decode (.ev 0x20001#18) = .error .tickPadding ∧
    decode (.ev 0x20100#18) = .error .tickPadding := by decide

/-- PD = FPS(2) byte(8), R45; vectors P-1 to P-10. -/
theorem test_decode_pd :
    decode (.pd 0b00_00110_000#10) = .ok (.rxChan 0#3) ∧ decode (.pd 0b00_00110_111#10) = .ok (.rxChan 7#3) ∧
    decode (.pd 0b00_00101111#10) = .ok (.rxDiscard 0x2F#8) ∧
    decode (.pd 0b00_00111000#10) = .ok (.rxDiscard 0x38#8) ∧
    decode (.pd 0b01_00110011#10) = .ok (.rxHigh 0x33#8) ∧
    decode (.pd 0b10_00110000#10) = .ok (.rxLow 0x30#8) ∧
    decode (.pd 0b11_00110011#10) = .ok (.rxUnreachable 0x33#8) := by decide

/-- T = {prev B, prev A, new B, new A}: the 16 rows of R44's table. -/
theorem test_decode_ti :
    decode (.ti 0b00_00#4 3) = .ok (.edgeNone0000 3) ∧ decode (.ti 0b00_01#4 3) = .ok (.edgeInc0001 3) ∧
    decode (.ti 0b00_10#4 3) = .ok (.edgeDec0010 3) ∧ decode (.ti 0b00_11#4 3) = .ok (.edgeSkip0011 3) ∧
    decode (.ti 0b01_00#4 3) = .ok (.edgeDec0100 3) ∧ decode (.ti 0b01_01#4 3) = .ok (.edgeNone0101 3) ∧
    decode (.ti 0b01_10#4 3) = .ok (.edgeSkip0110 3) ∧ decode (.ti 0b01_11#4 3) = .ok (.edgeInc0111 3) ∧
    decode (.ti 0b10_00#4 3) = .ok (.edgeInc1000 3) ∧ decode (.ti 0b10_01#4 3) = .ok (.edgeSkip1001 3) ∧
    decode (.ti 0b10_10#4 3) = .ok (.edgeNone1010 3) ∧ decode (.ti 0b10_11#4 3) = .ok (.edgeDec1011 3) ∧
    decode (.ti 0b11_00#4 3) = .ok (.edgeSkip1100 3) ∧ decode (.ti 0b11_01#4 3) = .ok (.edgeDec1101 3) ∧
    decode (.ti 0b11_10#4 3) = .ok (.edgeInc1110 3) ∧ decode (.ti 0b11_11#4 3) = .ok (.edgeNone1111 3) := by
  decide

/-- CC_MODE 0 = SINGLE, 1 = DUAL (R23, R73), and the RESET line. -/
theorem test_decode_cfg_signal :
    decode (.cfg 0b0#1 3 (-5)) = .ok (.emitSingle 3 (-5)) ∧ decode (.cfg 0b1#1 3 (-5)) = .ok (.emitDual 3 (-5)) ∧
    decode (.signal 0b1#1) = .ok .reset ∧ decode (.signal 0b0#1) = .error .notAsserted := by decide

theorem test_decode_table_word :
    decodeTableWord 24 0x10033 = some (.rx 0x33#8) ∧ decodeTableWord 16 0x037 = some (.rxChan 7#3) ∧
    decodeTableWord 8 0xE = some (.edgeInc1110 0) ∧ decodeTableWord 24 0x10100 = none ∧
    decodeTableWord 8 0x10 = none ∧ decodeTableWord 0 0 = none := by decide

/-! ### Small states -/

/-- A QUAD machine with every PHASE = p, valid, and the given accumulators. -/
def quad (mode : CcMode) (base : BitVec 7) (p : BitVec 2) (acc : Vector Half 8) : State :=
  { State.reset with
    cfg := { variant := .quad, ccMode := mode, ccBase := base }
    phase := Vector.replicate 8 p
    phaseValid := true
    acc := acc }

/-- A SERIAL machine in parser state fps, with FCH, FHI and one previous position for all channels. -/
def serial (mode : CcMode) (base : BitVec 7) (fps : BitVec 2) (fch : BitVec 3) (fhi : Byte) (prev : Half) : State :=
  { State.reset with
    cfg := { variant := .serial, ccMode := mode, ccBase := base }
    fps := fps
    fch := fch
    fhi := fhi
    prev := Vector.replicate 8 prev }

/-- All accumulators at v. -/
def accs (v : Int) : Vector Half 8 := Vector.replicate 8 (BitVec.ofInt 16 v)

/-- ACC = [3, -1, 0, 0, 0, 0, 0, 127] (vector A-14). -/
def accA14 : Vector Half 8 := #v[3#16, 0xFFFF#16, 0#16, 0#16, 0#16, 0#16, 0#16, 127#16]

/-- What f reads in the next state, if there is one. -/
def read {α : Type} (o : Host.Outcome State Fault Refusal) (f : State → α) : Option α :=
  match o with
  | .next t => some (f t)
  | .fault _ => none
  | .refused _ => none

/-! ### One operation on a small state -/

/-- Vector S-1. -/
theorem test_scan_primes :
    read (exec (.scan 0xFF#8 0x0F#8) State.reset) (fun t => (t.phase, t.phaseValid, t.acc)) =
      some (#v[3#2, 3#2, 3#2, 3#2, 1#2, 1#2, 1#2, 1#2], true, accs 0) := by decide
/-- Vector S-2, on accumulators at 126 and then one more: R57's saturation. -/
theorem test_scan_counts_every_channel :
    read (exec (.scan 0xFF#8 0x00#8) (quad .single 0#7 0b00#2 (accs 5))) (fun t => (t.phase, t.acc)) =
      some (Vector.replicate 8 0b01#2, accs 6) := by decide
/-- Vector S-4: channels 0 to 3 unchanged, channels 4 to 7 skip. -/
theorem test_scan_none_and_skip :
    read (exec (.scan 0x0F#8 0xF0#8) (quad .single 0#7 0b01#2 (accs 9))) (fun t => (t.phase, t.acc)) =
      some (#v[1#2, 1#2, 1#2, 1#2, 2#2, 2#2, 2#2, 2#2], accs 9) := by decide
/-- Vector X-10: a dial that moved three steps forward counts -1. -/
theorem test_scan_aliases :
    read (exec (.scan 0x00#8 0x01#8) (quad .single 0#7 0b00#2 (accs 0))) (fun t => t.accVal 0) = some (-1) := by
  decide
/-- Vector A-1, the transition table from ACC = 10. -/
theorem test_edge_table :
    (List.range 16).map (fun n => read (exec (decodeTi (BitVec.ofNat 4 n) 7) (quad .single 0#7 0b00#2 (accs 10)))
      (fun t => t.accVal 7)) =
    [10, 11, 9, 10, 9, 10, 10, 11, 11, 10, 10, 9, 10, 9, 11, 10].map some := by decide
/-- Vectors A-3 and A-4. -/
theorem test_edge_inc_saturates :
    read (exec (.edgeInc0001 0) (quad .single 0#7 0#2 (accs 127))) (fun t => t.accVal 0) = some 127 ∧
    read (exec (.edgeInc0111 0) (quad .single 0#7 0#2 (accs (-127)))) (fun t => t.accVal 0) = some (-126) := by
  decide
/-- Vectors A-6 and A-7. -/
theorem test_edge_dec_saturates :
    read (exec (.edgeDec1011 0) (quad .single 0#7 0#2 (accs (-127)))) (fun t => t.accVal 0) = some (-127) ∧
    read (exec (.edgeDec1101 0) (quad .single 0#7 0#2 (accs 1))) (fun t => t.accVal 0) = some 0 := by decide
/-- Vectors A-12 and A-13. -/
theorem test_satadd_exact_sum :
    read (exec (.satAdd 2 32767) (quad .single 0#7 0#2 (accs 127))) (fun t => t.accVal 2) = some 127 ∧
    read (exec (.satAdd 2 50) (quad .single 0#7 0#2 (accs (-100)))) (fun t => t.accVal 2) = some (-50) := by decide
/-- Vectors A-10 and A-11. -/
theorem test_apply_delta :
    read (exec (.applyDelta 3 32767) State.reset) (fun t => t.accVal 3) = some 127 ∧
    read (exec (.applyDelta 3 (-32768)) State.reset) (fun t => t.accVal 3) = some (-127) := by decide
/-- Vector A-14. -/
theorem test_drain_all :
    read (exec .drainAll (quad .single 0#7 0#2 accA14)) (fun t => (t.ret, t.acc)) =
      some (.drained [(0, 3), (1, -1), (7, 127)], accs 0) := by decide
/-- Vector A-15. -/
theorem test_drain_all_empty :
    read (exec .drainAll (quad .single 0#7 0#2 (accs 0))) (fun t => t.ret) = some (.drained []) := by decide
/-- The example of R63, on channel 7 of A-14's accumulators. -/
theorem test_drain_one :
    read (exec (.drainOne 7) (quad .single 0#7 0#2 accA14)) (fun t => (t.ret, t.accVal 7, t.accVal 0)) =
      some (.value 127, 0, 3) := by decide
/-- Vectors E-4, E-6, E-11, E-12. -/
theorem test_chunks :
    read (exec (.chunks (-127)) State.reset) (fun t => t.ret) = some (.pieces [-63, -63, -1]) ∧
    chunks 64 = [63, 1] ∧ chunks 127 = [63, 63, 1] ∧ chunks (-70) = [-63, -7] ∧ chunks 126 = [63, 63] := by decide
/-- Vectors E-8 and E-11, SINGLE. -/
theorem test_emit_single :
    read (exec (.emitSingle 3 (-5)) (quad .single 16#7 0#2 (accs 0))) (fun t => t.pend) =
      some [.cc 0x13#8 0x7B#8] ∧
    read (exec (.emitSingle 3 (-70)) (quad .single 16#7 0#2 (accs 0))) (fun t => t.pend) =
      some [.cc 0x13#8 0x41#8, .cc 0x13#8 0x79#8] := by decide
/-- Vectors E-6 and E-10, DUAL. -/
theorem test_emit_dual :
    read (exec (.emitDual 3 127) (quad .dual 16#7 0#2 (accs 0))) (fun t => t.pend) =
      some [.cc 0x16#8 0x3F#8, .cc 0x16#8 0x3F#8, .cc 0x16#8 0x01#8] ∧
    read (exec (.emitDual 3 (-64)) (quad .dual 16#7 0#2 (accs 0))) (fun t => t.pend) =
      some [.cc 0x17#8 0x3F#8, .cc 0x17#8 0x01#8] := by decide
/-- Vector E-13: the configuration corners. -/
theorem test_config_corners :
    configOk ⟨.quad, .single, 120#7⟩ = true ∧ configOk ⟨.quad, .single, 121#7⟩ = false ∧
    configOk ⟨.quad, .dual, 112#7⟩ = true ∧ configOk ⟨.quad, .dual, 113#7⟩ = false ∧
    ctrlSingle 120#7 7 = 0x7F#8 ∧ ctrlDual 112#7 7 (-1) = 0x7F#8 := by decide
/-- Vector T-2. -/
theorem test_tick :
    read (exec .tick (quad .single 16#7 0#2 #v[3#16, 0xFFFF#16, 0#16, 0#16, 0#16, 0#16, 0#16, 0#16]))
      (fun t => (t.pend, t.acc)) = some ([.cc 0x10#8 0x03#8, .cc 0x11#8 0x7F#8, .flush], accs 0) := by decide
/-- Vector T-3: 25 items. -/
theorem test_tick_full :
    read (exec .tick (quad .single 0#7 0#2 (accs 127))) (fun t => (t.pend.length, t.pend.getLast?)) =
      some (25, some .flush) := by decide
/-- Vectors P-2 and P-3. -/
theorem test_rx_awaiting_channel :
    read (exec (.rx 0x37#8) (serial .single 0#7 0#2 0#3 0#8 0#16)) (fun t => (t.fps, t.fch)) = some (0b01#2, 7#3) ∧
    read (exec (.rx 0x2F#8) (serial .single 0#7 0#2 5#3 9#8 0#16)) (fun t => (t.fps, t.fch, t.fhi)) =
      some (0b00#2, 5#3, 9#8) := by decide
/-- Vectors P-8 and P-11. -/
theorem test_rx_data_bytes :
    read (exec (.rx 0x33#8) (serial .single 0#7 1#2 2#3 0#8 0#16)) (fun t => (t.fps, t.fch, t.fhi)) =
      some (0b10#2, 2#3, 0x33#8) ∧
    read (exec (.rx 0x34#8) (serial .single 0#7 2#2 1#3 0x12#8 0x1234#16)) (fun t => (t.fps, t.pend, t.prev[1])) =
      some (0b00#2, [], 0x1234#16) := by decide
/-- Vectors D-3 (the counter wraps) and D-6 (the half range). -/
theorem test_rx_low :
    read (exec (.rxLow 0x00#8) (serial .single 0#7 2#2 0#3 0x00#8 0xFFFF#16)) (fun t => (t.pend, t.prev[0])) =
      some ([.cc 0x00#8 0x01#8, .flush], 0x0000#16) ∧
    read (exec (.rxLow 0x00#8) (serial .single 0#7 2#2 0#3 0x80#8 0x0000#16)) (fun t => (t.pend, t.accVal 0)) =
      some ([.cc 0x00#8 0x41#8, .cc 0x00#8 0x41#8, .cc 0x00#8 0x7F#8, .flush], 0) := by decide
/-- R66, R67, R68 as operations of their own. -/
theorem test_parser_rows :
    read (exec (.rxChan 7#3) State.reset) (fun t => (t.fch, t.fps)) = some (7#3, 0b01#2) ∧
    read (exec (.rxDiscard 0x41#8) State.reset) id = some State.reset ∧
    read (exec (.rxHigh 0x36#8) State.reset) (fun t => (t.fhi, t.fps)) = some (0x36#8, 0b10#2) := by decide
/-- The example of R79: ACC[3] = -5, DUAL, CC_BASE = 32. -/
theorem test_frame_flush :
    read (exec (.frameFlush 3) (quad .dual 32#7 0#2 (accs (-5)))) (fun t => (t.pend, t.accVal 3, t.accVal 4)) =
      some ([.cc 0x27#8 0x05#8, .flush], 0, -5) := by decide
/-- Vector X-8. -/
theorem test_reset :
    read (step { serial .dual 32#7 2#2 4#3 7#8 9#16 with
        pend := [.cc 0x10#8 0x03#8, .flush], acc := accs 5, resetLine := true, port := some 0x10033#18 }) id =
      some (serial .dual 32#7 0#2 0#3 0#8 0#16) := by decide
/-- Vectors X-4, X-5, X-6 and X-9, and the stop of RESERVED. -/
theorem test_stops :
    exec (.scan 0#8 0#8) (serial .single 0#7 0#2 0#3 0#8 0#16) = .refused (.because .wrongVariant) ∧
    exec (.rx 0x33#8) (quad .single 0#7 0#2 (accs 0)) = .refused (.because .wrongVariant) ∧
    exec .tick (serial .single 0#7 0#2 0#3 0#8 0#16) = .refused (.because .wrongVariant) ∧
    exec (.rx 0x33#8) (serial .single 0#7 3#2 0#3 0#8 0#16) = .fault .unreachableParseState ∧
    exec (.reserved 0#8 0#8) State.reset = .refused (.because .reservedKind) :=
  ⟨rfl, rfl, rfl, rfl, rfl⟩

/-! ### One step of the machine -/

/-- Vectors X-1, X-2 and X-3: a refused event sets the mark and is consumed. -/
theorem test_step_records_refusals :
    read (step { State.reset with port := some 0x30000#18 }) (fun t => (t.refusal, t.port)) =
      some (some .reservedKind, none) ∧
    read (step { serial .single 0#7 0#2 0#3 0#8 0#16 with port := some 0x10133#18 }) (fun t => t.refusal) =
      some (some .badPadding) ∧
    read (step { State.reset with port := some 0x20001#18 }) (fun t => t.refusal) = some (some .badPadding) := by
  decide
/-- Vector X-7: held until the Transport has taken FLUSH. -/
theorem test_step_holds :
    read (step { State.reset with port := some 0x00001#18, pend := [.flush], turns := [.block] })
      (fun t => (t.port, t.pend, t.phaseValid)) = some (some 0x00001#18, [.flush], false) ∧
    read (step { State.reset with port := some 0x00001#18, pend := [.flush] })
      (fun t => (t.port, t.pend, t.delivered)) = some (some 0x00001#18, [], [.flush]) := by decide
/-- R29 and R48: the head item as its three bytes. -/
theorem test_transport_delivers :
    read (step { State.reset with pend := [.cc 0x13#8 0x7B#8, .flush] }) (fun t => t.delivered.map Delivery.bytes) =
      some [[0xB0#8, 0x13#8, 0x7B#8]] := by decide
/-- The table words run as the first step after reset: RX.LOW's byte and EDGE.INC.10-00 on channel 0. -/
theorem test_fetch_words_run :
    read (step (State.reset.withFetchWord 16 0x205)) (fun t => (t.fps, t.prev[0])) = some (0b00#2, 5#16) ∧
    read (step (State.reset.withFetchWord 8 0x8)) (fun t => (t.accVal 0, t.phase[0])) = some (1, 0b00#2) ∧
    read (step (State.reset.withFetchWord 24 0x00101)) (fun t => t.phaseValid) = some true := by decide
/-- R12: the turns laid down first, then the round: the Block is held, the Transport takes an item. -/
theorem test_turns_then_round :
    read (steps 3 { State.reset with pend := [.flush, .flush], turns := [.block], schedule := .round .transport [.block] })
      (fun t => (t.pend, t.turns, t.schedule)) = some ([.flush], [], .round .transport [.block]) := by decide
/-- R40: the snapshot of a = 0x01, b = 0x03. -/
theorem test_snapshot : snapshot 0x01#8 0x03#8 = 0b00_00_00_00_00_00_10_11#16 := by decide
/-- R34 and R53: SCAN a=0x01 b=0x00, then TICK, as event words. -/
theorem test_host_iteration :
    hostIteration (some (0x01#8, 0x00#8)) true = [.event 0x00001#18, .event 0x20000#18] := by decide

/-! ### Witnesses: the hypotheses of each obligation are met together -/

/-- QUAD, every PHASE = 00, ACC = A-14's. -/
def q : State := quad .single 16#7 0b00#2 accA14
/-- SERIAL, awaiting the low byte of channel 7. -/
def z : State := serial .dual 112#7 0b10#2 7#3 0x12#8 0x1234#16
/-- An item pending under QUAD, and an event held. -/
def h : State := { q with pend := [.cc 0x10#8 0x03#8, .flush], port := some 0x20000#18, turns := [.block, .transport, .transport] }

theorem witness_ScanDetectsEveryChannelsEdge :
    evKind 0x00180#18 = 0b00#2 ∧ z.cfg.variant = .serial ∧ (State.reset.cfg.variant = .quad ∧ State.reset.phaseValid = false) ∧
    (q.cfg.variant = .quad ∧ q.phaseValid = true) := by decide
theorem witness_FirstScanPrimesWithoutCounting :
    State.reset.cfg.variant = .quad ∧ State.reset.phaseValid = false := by decide
theorem witness_RepeatedScanChangesNothing : (read (exec (.scan 0x01#8 0x80#8) q) id).isSome = true := by decide
/-- n = 3 forward (00 to 10 on channel 0), and n = 1 backward from the same sample. -/
theorem witness_AliasedMotionCountsModFour :
    q.cfg.variant = .quad ∧ q.phaseValid = true ∧ newPhase 0x00#8 0x01#8 0 = forwardStep^[3] q.phase[0] ∧
    q.phase[0] = forwardStep^[1] (newPhase 0x00#8 0x01#8 0) ∧ newPhase 0x80#8 0x00#8 7 = forwardStep^[1] q.phase[7] := by
  decide
theorem witness_SatAddClampsTheExactSum : (0 : Int) = 0 ∧ q.AccBounded := by decide
/-- The three clauses at their bounds, on ACC[7] = 127 and ACC[1] = -1. -/
theorem witness_ApplyDeltaSaturates :
    127 - q.accVal 1 ≤ 128 ∧ -126 ≤ -127 - q.accVal 1 ∧ (-127 - q.accVal 1 < 127 ∧ 127 < 127 - q.accVal 1) ∧
    127 - q.accVal 7 ≤ 0 := by decide
theorem witness_SaturationLosesMotionBeyondTheBound : State.reset.accVal 7 = 0 := by decide
theorem witness_SecondDrainIsEmpty :
    (read (exec .drainAll q) id).isSome = true ∧ (read (exec .tick q) id).isSome = true := by decide
theorem witness_RxRunsTheParserWordsOperation : z.cfg.variant = .serial := by decide
/-- The parser states 00 (bytes 0x2F, 0x30, 0x37, 0x38), 01 and 10. -/
theorem witness_RxAdvancesTheParserByOneByte :
    q.cfg.variant = .quad ∧
    (∀ fps ∈ [0b00#2, 0b01#2, 0b10#2], ({ z with fps := fps } : State).cfg.variant = .serial ∧
      ({ z with fps := fps } : State).fps ≠ 0b11#2 ∧ configOk ({ z with fps := fps } : State).cfg = true) ∧
    (∀ byte ∈ [0x30#8, 0x37#8], 0x30 ≤ byte.toNat ∧ byte.toNat ≤ 0x37) ∧
    (∀ byte ∈ [0x2F#8, 0x38#8], ¬(0x30 ≤ byte.toNat ∧ byte.toNat ≤ 0x37)) := by decide
theorem witness_ChannelByteIsRecorded :
    ∀ byte ∈ [0x30#8, 0x37#8], 0x30 ≤ byte.toNat ∧ byte.toNat ≤ 0x37 := by decide
theorem witness_OtherByteIsDiscarded :
    ∀ byte ∈ [0x00#8, 0x2F#8, 0x38#8, 0xFF#8], byte.toNat < 0x30 ∨ 0x37 < byte.toNat := by decide
theorem witness_LowByteCompletesTheFrame : configOk z.cfg = true ∧ (7 : Channel).val = z.fch.toNat := by decide
theorem witness_UnreachableParseStateIsStuck :
    (z.fps ≠ 0b11#2 ∧ (read (step z) id).isSome = true) ∧
    ({ z with fps := 0b11#2 } : State).cfg.variant = .serial ∧ ({ z with fps := 0b11#2 } : State).fps = 0b11#2 := by
  decide
theorem witness_DeltaSixteenIsTheModularDifference :
    (((0x7FFF#16).toNat : Int) - (0x0000#16).toNat).natAbs ≤ 32767 ∧
    (((0x0000#16).toNat : Int) - (0x7FFF#16).toNat).natAbs ≤ 32767 := by decide
/-- SERIAL, awaiting a channel byte, with garbage 0x2F 0x38, a frame for channel 3 and one more byte to come. -/
def g : State :=
  { serial .single 0#7 0b00#2 5#3 9#8 0x0005#16 with
    hostQueue := hostBytes ([0x2F#8, 0x38#8] ++ serialFrame 3 0x000A#16) ++ [.event (eventRx 0x41#8)] }
theorem witness_GarbageResynchronises :
    g.cfg.variant = .serial ∧ configOk g.cfg = true ∧ g.fps = 0b00#2 ∧ g.pend = [] ∧ g.refusal = none ∧
    g.port = none ∧ g.resetLine = false ∧ g.turns = [] ∧ g.schedule = .byDefault ∧
    (∀ byte ∈ [0x2F#8, 0x38#8], byte.toNat < 0x30 ∨ 0x37 < byte.toNat) ∧
    g.hostQueue = hostBytes ([0x2F#8, 0x38#8] ++ serialFrame 3 0x000A#16) ++ [.event (eventRx 0x41#8)] := by decide
theorem witness_ChunksSplitExactly : ∀ v ∈ [(-127 : Int), 0, 63, 64, 127], -127 ≤ v ∧ v ≤ 127 := by decide
theorem witness_EmitSingleCarriesTheSignInTheValue :
    (-127 : Int) ≤ -127 ∧ (-127 : Int) ≤ 127 ∧ (quad .single 120#7 0#2 (accs 0)).cfg.ccBase.toNat ≤ 120 := by decide
theorem witness_EmitDualSelectsTheControllerBySign :
    (-127 : Int) ≤ 127 ∧ (127 : Int) ≤ 127 ∧ z.cfg.ccBase.toNat ≤ 112 := by decide
/-- The two thresholds, 121 in SINGLE mode and 113 in DUAL mode. -/
theorem witness_RowsThatAssembleControllersRefuseABadBase :
    (∀ s ∈ [quad .single 121#7 0#2 (accs 0)],
      120 < s.cfg.ccBase.toNat ∧ s.cfg.ccMode = .single ∧ s.cfg.variant = .quad) ∧
    (∀ s ∈ [quad .dual 113#7 0#2 (accs 0)],
      112 < s.cfg.ccBase.toNat ∧ s.cfg.ccMode = .dual ∧ s.cfg.variant = .quad) := by decide
theorem witness_EmittedPiecesSumToTheValue :
    (-127 : Int) ≤ -127 ∧ (-127 : Int) ≤ 127 ∧ configOk z.cfg = true ∧ configOk q.cfg = true := by decide
theorem witness_ValueAssembly : ∀ k ∈ [(-63 : Int), -1, 1, 63], 1 ≤ k.natAbs ∧ k.natAbs ≤ 63 := by decide
theorem witness_ControllersStayWithinSevenBits :
    (configOk ⟨.quad, .single, 120#7⟩ = true ∧ (⟨.quad, .single, 120#7⟩ : Config).ccMode = .single) ∧
    (configOk z.cfg = true ∧ z.cfg.ccMode = .dual) := by decide
theorem witness_FrameFlushReportsOneChannel : configOk z.cfg = true := by decide
theorem witness_TickDrainsEveryChannel :
    z.cfg.variant = .serial ∧
    (evKind 0x20001#18 = 0b10#2 ∧ (0x20001#18).extractLsb' 0 16 ≠ 0#16 ∧ q.cfg.variant = .quad) ∧
    (q.cfg.variant = .quad ∧ configOk q.cfg = true) := by decide
theorem witness_OneFlushAfterTheLastMessage :
    (q.AccBounded ∧ (read (exec .tick q) id).isSome = true) ∧ (read (exec (.rx 0x34#8) z) id).isSome = true ∧
    (read (exec (.scan 0xFF#8 0x00#8) q) id).isSome = true := by decide
theorem witness_ResetSetsEveryItemAndTakesPriority : ({ h with resetLine := true } : State).resetLine = true := by
  decide
theorem witness_StepRunsThePresentedEvent :
    ({ q with port := some 0x20000#18 } : State).Takes 0x20000#18 ∧ decodeEv 0x20000#18 = .ok .tick ∧
    Instr.tick.wf = true :=
  ⟨⟨by decide, by decide, by decide, by decide, by decide, by decide⟩, by decide, by decide⟩
theorem witness_ReservedKindIsRefused : (0x38001#18).extractLsb' 16 2 = 0b11#2 := by decide
/-- The five clauses: RESERVED, RX and TICK with padding, RX under QUAD, SCAN and TICK under SERIAL. -/
theorem witness_RefusedEventSetsTheMark :
    (({ q with port := some 0x30000#18 } : State).Takes 0x30000#18 ∧ evKind 0x30000#18 = 0b11#2) ∧
    (({ z with port := some 0x10133#18 } : State).Takes 0x10133#18 ∧ evKind 0x10133#18 = 0b01#2 ∧
      z.cfg.variant = .serial ∧ evP1 0x10133#18 ≠ 0#8) ∧
    (({ q with port := some 0x20001#18 } : State).Takes 0x20001#18 ∧ evKind 0x20001#18 = 0b10#2 ∧
      q.cfg.variant = .quad ∧ (0x20001#18).extractLsb' 0 16 ≠ 0#16) ∧
    (({ q with port := some 0x10133#18 } : State).Takes 0x10133#18 ∧ evKind 0x10133#18 = 0b01#2) ∧
    (({ z with port := some 0x20001#18 } : State).Takes 0x20001#18 ∧ evKind 0x20001#18 = 0b10#2) ∧
    (({ z with port := some 0x00001#18 } : State).Takes 0x00001#18 ∧ evKind 0x00001#18 = 0b00#2) := by
  refine ⟨⟨⟨?_, ?_, ?_, ?_, ?_, ?_⟩, ?_⟩, ⟨⟨?_, ?_, ?_, ?_, ?_, ?_⟩, ?_, ?_, ?_⟩, ⟨⟨?_, ?_, ?_, ?_, ?_, ?_⟩, ?_, ?_, ?_⟩,
    ⟨⟨?_, ?_, ?_, ?_, ?_, ?_⟩, ?_⟩, ⟨⟨?_, ?_, ?_, ?_, ?_, ?_⟩, ?_⟩, ⟨?_, ?_, ?_, ?_, ?_, ?_⟩, ?_⟩ <;> decide
/-- The two thresholds: SINGLE with 121, DUAL with 113. -/
theorem witness_IllFormedConfigurationIsRefused :
    ∀ s ∈ [({ quad .single 121#7 0#2 (accs 0) with port := some 0x20000#18 } : State),
           { quad .dual 113#7 0#2 (accs 0) with port := some 0x20000#18 }],
      s.resetLine = false ∧ s.nextAgent = .block ∧ s.port = some 0x20000#18 ∧ s.pend = [] ∧ s.refusal = none ∧
      (s.cfg.ccMode = .single ∧ 120 < s.cfg.ccBase.toNat ∨ s.cfg.ccMode = .dual ∧ 112 < s.cfg.ccBase.toNat) := by
  decide
theorem witness_HeldEventChangesNothing :
    (h.resetLine = false ∧ h.nextAgent = .block ∧ h.pend ≠ []) ∧
    (∀ s ∈ [({ q with refusal := some .badPadding, port := some 0x20000#18, turns := [.block] } : State)],
      s.resetLine = false ∧ s.nextAgent = .block ∧ s.refusal ≠ none) ∧
    (∀ s ∈ [({ q with turns := [.block] } : State)],
      s.resetLine = false ∧ s.nextAgent = .block ∧ s.port = none) := by decide
theorem witness_TransportTakesTheHead :
    (∀ s ∈ [({ h with turns := [] } : State)],
      s.resetLine = false ∧ s.nextAgent = .transport ∧ s.pend = .cc 0x10#8 0x03#8 :: [.flush]) ∧
    (∀ s ∈ [({ q with turns := [.transport] } : State)],
      s.resetLine = false ∧ s.nextAgent = .transport ∧ s.pend = []) := by decide
theorem witness_HostPresentsOnlyAtAFreePort :
    (g.resetLine = false ∧ g.nextAgent = .host ∧ g.port = none ∧
      g.hostQueue = .event (eventRx 0x2F#8) :: g.hostQueue.tail) ∧
    (∀ s ∈ [({ g with port := some 0x10041#18, turns := [.host] } : State)],
      s.resetLine = false ∧ s.nextAgent = .host ∧ s.port ≠ none ∧
      s.hostQueue = .event (eventRx 0x2F#8) :: s.hostQueue.tail) ∧
    (∀ s ∈ [({ h with hostQueue := [.reset], turns := [.host] } : State)],
      s.resetLine = false ∧ s.nextAgent = .host ∧ s.hostQueue = .reset :: []) ∧
    (q.resetLine = false ∧ q.nextAgent = .host ∧ q.hostQueue = []) := by decide
theorem witness_TickSeesTheSampleOfItsIteration :
    ∀ s ∈ [({ q with hostQueue := hostIteration (some (0x01#8, 0x00#8)) true } : State)],
      s.cfg.variant = .quad ∧ configOk s.cfg = true ∧ s.pend = [] ∧ s.refusal = none ∧ s.port = none ∧
      s.resetLine = false ∧ s.turns = [] ∧ s.schedule = .byDefault ∧
      s.hostQueue = hostIteration (some (0x01#8, 0x00#8)) true := by decide
theorem witness_RefusalMarkIsNeverCleared :
    ({ h with refusal := some .badPadding, resetLine := true } : State).refusal = some .badPadding ∧
    (read (step { h with refusal := some .badPadding, resetLine := true }) id).isSome = true := by decide
theorem witness_ConfigurationIsNeverWritten : (read (step h) id).isSome = true := by decide
/-- A frame's low byte changes PREV and may change ACC, the first SCAN changes PHASE, a TICK changes ACC. -/
theorem witness_RegistersAreWrittenOnlyByTheirRules :
    (∀ s ∈ [({ z with port := some (eventRx 0x35#8), acc := accs 1 } : State)], s.resetLine = false ∧
      read (step s) (fun t => decide (t.prev[7] ≠ s.prev[7] ∧ t.acc ≠ s.acc)) = some true) ∧
    (∀ s ∈ [({ State.reset with port := some (eventScan 0x01#8 0x00#8) } : State)], s.resetLine = false ∧
      read (step s) (fun t => decide (t.phaseValid ≠ s.phaseValid ∧ t.phase ≠ s.phase)) = some true) ∧
    (∀ s ∈ [({ q with port := some eventTick } : State)], s.resetLine = false ∧
      read (step s) (fun t => decide (t.acc ≠ s.acc)) = some true) := by decide
theorem witness_OutputIsNeverDroppedOrReordered :
    h.resetLine = false ∧ (read (step { h with turns := [] }) (fun t => t.delivered.length)) = some 1 := by decide
/-- A sound state with items pending, an accumulator counted and a phase held, whose step runs. -/
def sound : State := { h with delivered := [.sendEvent 0xB0#8 0x10#8 0x3F#8] }
theorem witness_EveryStepKeepsSoundness : sound.Sound ∧ (read (step sound) id).isSome = true :=
  ⟨⟨by decide, by decide, by decide, by decide, by decide, by decide, by decide⟩, by decide⟩
theorem witness_FairTransportDeliversEverything :
    h.resetLine = false ∧ (∀ act ∈ h.hostQueue, act ≠ .reset) ∧ 3 ≤ h.turns.length ∧
    h.pend.length ≤ (h.turns.take 3).count .transport ∧ (read (steps 3 h) id).isSome = true := by decide
theorem witness_PendingItemsDrainByDefault :
    ({ h with turns := [] } : State).resetLine = false ∧ ({ h with turns := [] } : State).turns = [] ∧
    ({ h with turns := [] } : State).schedule = .byDefault := by decide
/-- The Transport left out: only the Block's turn comes round, and a TICK is held for ever. -/
def unfair : State := { h with turns := [], schedule := .round .block [] }
theorem witness_UnfairTransportHoldsTheBlockForEver :
    (unfair.resetLine = false ∧ (∀ act ∈ unfair.hostQueue, act ≠ .reset) ∧ unfair.port = some 0x20000#18 ∧
      unfair.pend ≠ [] ∧ NeverTurns .transport unfair) ∧
    (unfair.turns = [] ∧ unfair.schedule = .round .block [] ∧ ∀ b ∈ [Agent.block], b ≠ .transport) :=
  ⟨⟨rfl, by decide, rfl, by decide, fun n t e => by
    have := steps_loop (p := 1) (s := unfair) rfl n
    rw [Nat.mul_one, e] at this; cases this; decide⟩, rfl, rfl, by decide⟩
/-- Transport and Block by turns: both items are delivered, the SCAN is taken, and both go on having turns. -/
def fair : State :=
  { quad .single 0#7 0b00#2 (accs 0) with
    pend := [.cc 0x10#8 0x03#8, .flush], port := some 0x00001#18, schedule := .round .transport [.block] }
/-- `fair` once everything is delivered and taken. -/
def idle : State := (read (steps 4 fair) id).getD fair
theorem witness_WeaklyFairTransportDeliversEveryItem :
    fair.resetLine = false ∧ (∀ act ∈ fair.hostQueue, act ≠ .reset) ∧ TurnsForEver .transport fair :=
  ⟨rfl, by decide, turnsForEver_of_loop (k := 4) (p := 2) (t := idle) (by decide) rfl rfl (by decide)⟩
theorem witness_FairnessTakesThePresentedEvent :
    fair.port = some 0x00001#18 ∧ fair.refusal = none ∧ configOk fair.cfg = true ∧
    TurnsForEver .transport fair ∧ TurnsForEver .block fair :=
  ⟨rfl, rfl, by decide, witness_WeaklyFairTransportDeliversEveryItem.2.2,
    turnsForEver_of_loop (k := 5) (p := 2) (t := idle.endTurn) (by decide) rfl rfl (by decide)⟩
/-- Differing PHASE before priming, FCH and FHI outside a frame. -/
theorem witness_ScratchValuesAreUnobservable :
    SameButScratch State.reset
      { State.reset with phase := Vector.replicate 8 0b11#2, fch := 5#3, fhi := 0xAA#8 } :=
  ⟨by decide, by decide, by decide, by decide⟩
theorem witness_DecodeOfEncodeIsIdentity :
    (Instr.emitDual 7 (-127)).wf = true ∧ encode (.emitDual 7 (-127)) = some (.cfg 1#1 7 (-127)) ∧
    (Instr.rxChan 5#3).wf = true ∧ encode (.rxChan 5#3) = some (.pd 0x035#10) := by decide
theorem witness_EncodeOfDecodeIsIdentity :
    (Code.pd 0x2FF#10).wf = true ∧ decode (.pd 0x2FF#10) = .ok (.rxLow 0xFF#8) := by decide

end Sys2Proof.Tests
end

section
/-! PROOFS. The statements of 00_scope.md: the refusal mark is kept (R13), and an ill-formed configuration is
refused (R7). -/

namespace Sys2Proof.Machine

/-! ### Ill-formed configurations (R7, R85) -/

theorem baseOk_single_eq_false_iff (base : BitVec 7) : baseOk .single base = false ↔ 120 < base.toNat := by
  simp only [baseOk, decide_eq_false_iff_not]; omega

theorem baseOk_dual_eq_false_iff (base : BitVec 7) : baseOk .dual base = false ↔ 112 < base.toNat := by
  simp only [baseOk, decide_eq_false_iff_not]; omega

theorem configOk_eq_false_iff (c : Config) :
    configOk c = false ↔
      (c.ccMode = .single ∧ 120 < c.ccBase.toNat) ∨ (c.ccMode = .dual ∧ 112 < c.ccBase.toNat) := by
  unfold configOk
  cases c.ccMode with
  | single => simp [baseOk_single_eq_false_iff]
  | dual => simp [baseOk_dual_eq_false_iff]

theorem withBase_of_eq_false {ok : Bool} (h : ok = false) (t : State) :
    withBase ok t = .refused (.because .badConfig) := by
  rw [h]; rfl

theorem exec_emitSingle (ch : Channel) (v : Int) (s : State) :
    exec (.emitSingle ch v) s = withBase (baseOk .single s.cfg.ccBase) (emitSingle ch v s) := rfl

theorem exec_emitDual (ch : Channel) (v : Int) (s : State) :
    exec (.emitDual ch v) s = withBase (baseOk .dual s.cfg.ccBase) (emitDual ch v s) := rfl

theorem exec_frameFlush (ch : Channel) (s : State) :
    exec (.frameFlush ch) s = withBase (configOk s.cfg) (frameFlush ch s) := rfl

theorem exec_rxLow (lo : Byte) (s : State) :
    exec (.rxLow lo) s = withBase (configOk s.cfg) (completeFrame lo s) := rfl

theorem exec_tick_of_quad {s : State} (hq : s.cfg.variant = .quad) :
    exec .tick s = withBase (configOk s.cfg) (tick s) :=
  if_neg (not_not_intro hq)

/-- Settles O29: the three rows that check the mode that is built, and the two EMIT rows that check their own
mode's bound, all answer through `withBase`. -/
theorem rowsThatAssembleControllersRefuseABadBase : Obligations.RowsThatAssembleControllersRefuseABadBase := by
  intro s
  refine ⟨fun h ch v => ?_, fun h ch v => ?_, fun h => ?_⟩
  · rw [exec_emitSingle, withBase_of_eq_false ((baseOk_single_eq_false_iff _).mpr h)]
  · rw [exec_emitDual, withBase_of_eq_false ((baseOk_dual_eq_false_iff _).mpr h)]
  · have hbad : configOk s.cfg = false := (configOk_eq_false_iff _).mpr h
    refine ⟨fun ch => ?_, fun lo => ?_, fun hq => ?_⟩
    · rw [exec_frameFlush, withBase_of_eq_false hbad]
    · rw [exec_rxLow, withBase_of_eq_false hbad]
    · rw [exec_tick_of_quad hq, withBase_of_eq_false hbad]

theorem step_of_block_turn {s : State} (hline : s.resetLine = false) (hturn : s.nextAgent = .block) :
    step s = blockMove s.endTurn := by
  rw [step_of_line_low hline]; simp only [hturn]

/-- An event that would otherwise be taken, under an ill-formed configuration: only the mark is set (R7). -/
theorem blockMove_of_configOk_eq_false {s : State} {w : EventWord} (hport : s.port = some w)
    (hpend : s.pend = []) (hrefusal : s.refusal = none) (hbad : configOk s.cfg = false) :
    blockMove s = .next { s with refusal := some .badConfig } := by
  have hfree : (s.refusalRecorded || s.holding) = false := by
    simp [State.refusalRecorded, State.holding, hpend, hrefusal]
  have hmark : s.recordRefusal .badConfig = { s with refusal := some .badConfig } := by
    simp [State.recordRefusal, hrefusal]
  simp [blockMove, hport, hfree, hbad, hmark]

/-- Settles O41: the Block's turn, with the configuration the only one of R28's conditions that fails. -/
theorem illFormedConfigurationIsRefused : Obligations.IllFormedConfigurationIsRefused := by
  intro s w hline hturn hport hpend hrefusal hcfg
  have hbad : configOk s.cfg = false := (configOk_eq_false_iff _).mpr hcfg
  rw [step_of_block_turn hline hturn]
  exact blockMove_of_configOk_eq_false (s := s.endTurn) hport hpend hrefusal hbad

/-! ### The refusal mark (R13, R96) -/

@[simp] theorem hostMove_refusal (s : State) : (hostMove s).refusal = s.refusal := by
  rw [hostMove_frame]

@[simp] theorem transportMove_refusal (s : State) : (transportMove s).refusal = s.refusal := by
  rw [transportMove_frame]

theorem refusal_of_exec_reset {s t : State} (h : exec .reset s = .next t) : t.refusal = s.refusal := by
  cases h; rfl

/-- With a refusal recorded the Block takes nothing (R28). -/
theorem eq_of_blockMove_of_refusal {s t : State} {r : RefusalReason} (hr : s.refusal = some r)
    (h : blockMove s = .next t) : t = s := by
  obtain rfl | ⟨w, -, -, hnone, -⟩ := blockMove_cases h
  · rfl
  · rw [hr] at hnone; cases hnone

/-- Settles O46: RESET, the Host and the Transport do not write the mark, and the Block, the only one that
does, stands still once a refusal is recorded. -/
theorem refusalMarkIsNeverCleared : Obligations.RefusalMarkIsNeverCleared := by
  intro s t r hr h
  obtain ⟨-, hreset⟩ | ⟨-, ⟨-, rfl⟩ | ⟨-, rfl⟩ | ⟨-, hblock⟩⟩ := step_cases h
  · exact (refusal_of_exec_reset hreset).trans hr
  · rw [hostMove_refusal]; exact hr
  · rw [transportMove_refusal]; exact hr
  · rw [eq_of_blockMove_of_refusal (s := s.endTurn) hr hblock]; exact hr

end Sys2Proof.Machine
end

section
/-! PROOFS. The statements of 10_state.md: every step keeps the soundness of the state (R15, R22, R25, R48, R52,
R61, R80, R86), scratch values are unobservable (R16, R20, R21), and who may write which register (R14, R17,
R18, R23). -/

namespace Sys2Proof.Machine

/-! ### The pieces of a value and their messages (R48 to R50, R52, R72) -/

/-- One round of R72's loop brings the rest CLAMP closer to 0, or to 0. -/
theorem natAbs_chunk_rest (r : Int) : (r - r.sign * min (r.natAbs : Int) CLAMP).natAbs = r.natAbs - 63 := by
  obtain h | rfl | h := lt_trichotomy r 0
  · rw [Int.sign_eq_neg_one_of_neg h]; simp only [CLAMP]; omega
  · rfl
  · rw [Int.sign_eq_one_of_pos h]; simp only [CLAMP]; omega

theorem length_chunksFrom (fuel : Nat) (r : Int) : 63 * (chunksFrom fuel r).length ≤ r.natAbs + 62 := by
  induction fuel generalizing r with
  | zero => simp [chunksFrom]
  | succ fuel ih =>
    rw [chunksFrom]
    split
    next => simp
    next h =>
      have hrest := ih (r - r.sign * min (r.natAbs : Int) CLAMP)
      rw [natAbs_chunk_rest] at hrest
      rw [List.length_cons]; omega

theorem natAbs_of_mem_chunksFrom {fuel : Nat} {r k : Int} (hk : k ∈ chunksFrom fuel r) :
    1 ≤ k.natAbs ∧ k.natAbs ≤ 63 := by
  induction fuel generalizing r with
  | zero => cases hk
  | succ fuel ih =>
    rw [chunksFrom] at hk
    split at hk
    next => cases hk
    next h =>
      obtain ⟨-, hlow, hhigh, -⟩ := chunk_step h
      obtain rfl | hk := List.mem_cons.mp hk
      · exact ⟨hlow, hhigh⟩
      · exact ih hk

/-- A value a drain hands over has at most three pieces. -/
theorem length_chunks_le_three {v : Int} (h : -127 ≤ v ∧ v ≤ 127) : (chunks v).length ≤ 3 := by
  have := length_chunksFrom v.natAbs v
  unfold chunks; omega

theorem ctrlSingle_toNat {base : BitVec 7} (h : base.toNat ≤ 120) (ch : Channel) :
    (ctrlSingle base ch).toNat = base.toNat + ch := by
  rw [ctrlSingle, BitVec.toNat_ofNat]; omega

theorem ctrlDual_toNat {base : BitVec 7} (h : base.toNat ≤ 112) (ch : Channel) (k : Int) :
    (ctrlDual base ch k).toNat = base.toNat + 2 * ch + if k < 0 then 1 else 0 := by
  rw [ctrlDual, BitVec.toNat_ofNat]; split <;> omega

theorem valueSingle_toNat (k : Int) : (valueSingle k).toNat = (k % 128).toNat := by
  rw [valueSingle, BitVec.toNat_setWidth, BitVec.toNat_ofInt]; omega

theorem valueDual_toNat {k : Int} (h : k.natAbs ≤ 63) : (valueDual k).toNat = k.natAbs := by
  rw [valueDual, BitVec.toNat_ofNat]; omega

/-- The message of a piece is one the block can emit, under a well-formed configuration (R48, R52). -/
theorem legalItem_itemOf {c : Config} (hc : configOk c = true) (ch : Channel) {k : Int}
    (hk : 1 ≤ k.natAbs ∧ k.natAbs ≤ 63) : legalItem c (itemOf c ch k) = true := by
  obtain ⟨variant, mode, base⟩ := c
  cases mode with
  | single =>
    have hbase : base.toNat ≤ 120 := by simp [configOk, baseOk] at hc; omega
    have hval := valueSingle_toNat k
    have h0 : valueSingle k ≠ 0x00#8 := fun e => by rw [e, BitVec.toNat_ofNat] at hval; omega
    have h64 : valueSingle k ≠ 0x40#8 := fun e => by rw [e, BitVec.toNat_ofNat] at hval; omega
    simp [legalItem, itemOf, ctrlSingle_toNat hbase, h0, h64]
    omega
  | dual =>
    have hbase : base.toNat ≤ 112 := by simp [configOk, baseOk] at hc; omega
    simp [legalItem, itemOf, ctrlDual_toNat hbase, valueDual_toNat hk.2]
    split <;> omega

theorem legalDelivery_deliver {c : Config} {item : OutItem} (h : legalItem c item = true) :
    legalDelivery (deliver item) = true := by
  cases item with
  | flush => rfl
  | cc ctrl val =>
    have hbytes : ctrl.toNat ≤ 127 ∧ val.toNat ≤ 127 := by
      cases hm : c.ccMode with
      | single => simp [legalItem, hm] at h; omega
      | dual => simp [legalItem, hm] at h; omega
    simp [deliver, legalDelivery, CC_STATUS, hbytes]

/-! ### What one event reports (R22, R80) -/

/-- The items one event appends: none, or at most 24 legal messages and then one FLUSH. -/
def IsEventReport (c : Config) (l : List OutItem) : Prop :=
  l = [] ∨ ∃ msgs, l = msgs ++ [.flush] ∧ msgs.length ≤ 24 ∧
    ∀ m ∈ msgs, m ≠ .flush ∧ legalItem c m = true

theorem IsEventReport.pendShape {c : Config} {s : State} (h : IsEventReport c s.pend) : s.PendShape := by
  obtain h | ⟨msgs, h, hlen, hmsgs⟩ := h <;> rw [State.PendShape, h]
  · simp
  · have hcount : msgs.count .flush = 0 := List.count_eq_zero.mpr fun hm => (hmsgs _ hm).1 rfl
    simp [hcount]; omega

theorem IsEventReport.legal {c : Config} {l : List OutItem} (h : IsEventReport c l) :
    ∀ item ∈ l, legalItem c item = true := by
  obtain rfl | ⟨msgs, rfl, -, hmsgs⟩ := h
  · simp
  · intro item hitem
    obtain hm | hm := List.mem_append.mp hitem
    · exact (hmsgs item hm).2
    · cases List.mem_singleton.mp hm; rfl

theorem itemOf_ne_flush (c : Config) (ch : Channel) (k : Int) : itemOf c ch k ≠ .flush := by
  unfold itemOf; split <;> exact OutItem.noConfusion

/-- The messages of a value's pieces are messages the block can emit. -/
theorem messages_legal {c : Config} (hc : configOk c = true) (ch : Channel) (v : Int) :
    ∀ m ∈ (chunks v).map (itemOf c ch), m ≠ .flush ∧ legalItem c m = true := by
  intro m hm
  obtain ⟨k, hk, rfl⟩ := List.mem_map.mp hm
  exact ⟨itemOf_ne_flush c ch k, legalItem_itemOf hc ch (natAbs_of_mem_chunksFrom hk)⟩

/-- The report of one channel (R79). -/
theorem isEventReport_reportOf {c : Config} (hc : configOk c = true) (ch : Channel) {v : Int}
    (hv : -127 ≤ v ∧ v ≤ 127) : IsEventReport c (reportOf c ch v) := by
  unfold reportOf
  split
  · exact .inl rfl
  · have := length_chunks_le_three hv
    exact .inr ⟨_, rfl, by rw [List.length_map]; omega, messages_legal hc ch v⟩

/-- The report of a TICK (R78): at most three messages for each of the eight channels. -/
theorem isEventReport_tick {s : State} (hc : configOk s.cfg = true) (hacc : s.AccBounded)
    (hpend : s.pend = []) : IsEventReport s.cfg (tick s).pend := by
  obtain ⟨-, h, -⟩ := tick_spec s
  rw [h, hpend, List.nil_append]
  by_cases h0 : ∀ ch : Channel, s.accVal ch = 0
  · exact .inl (by simp [h0])
  · rw [if_neg h0]
    refine .inr ⟨_, rfl, ?_, fun m hm => ?_⟩
    · have hsum : ∀ n ∈ (channels.filter fun ch => decide (s.accVal ch ≠ 0)).map
          (fun ch => ((chunks (s.accVal ch)).map (itemOf s.cfg ch)).length), n ≤ 3 := by
        intro n hn
        obtain ⟨ch, -, rfl⟩ := List.mem_map.mp hn
        rw [List.length_map]; exact length_chunks_le_three (hacc ch)
      have hle := List.sum_le_card_nsmul _ 3 hsum
      have hfilter : (channels.filter fun ch => decide (s.accVal ch ≠ 0)).length ≤ 8 :=
        List.length_filter_le _ channels
      rw [List.length_map, smul_eq_mul] at hle
      rw [List.length_flatMap]; omega
    · obtain ⟨ch, -, hm⟩ := List.mem_flatMap.mp hm
      exact messages_legal hc ch _ m hm

/-! ### Soundness, operation by operation (R15, R25, R48, R52, R61, R80, R86) -/

theorem State.accVal_of_acc_set_zero (s t : State) (ch : Channel) (h : t.acc = s.acc.set ch 0#16) (c : Channel) :
    t.accVal c = if c = ch then 0 else s.accVal c := by
  have hset : t.accVal c = (s.setAcc ch 0).accVal c := by simp [State.accVal, h]
  rw [hset]
  split
  next e => rw [e, s.accVal_setAcc_self ch (by omega)]
  next hne => exact s.accVal_setAcc_ne 0 hne

theorem edgeOp_bounded {s : State} (h : s.AccBounded) (t : BitVec 4) (ch : Channel) :
    -127 ≤ (edgeOp t ch s).accVal ch ∧ (edgeOp t ch s).accVal ch ≤ 127 := by
  rw [(edgeOp_spec t ch s).1]
  cases edgeKind t with
  | none => exact h ch
  | inc => exact sat_bounds _
  | dec => exact sat_bounds _
  | skip => exact h ch

/-- Soundness says nothing about the ports, the mark and the model's own fields other than `delivered`. -/
theorem State.Sound.of_frame {s t : State} (h : s.Sound)
    (ht : t = { s with
      refusal := t.refusal, port := t.port, resetLine := t.resetLine, hostQueue := t.hostQueue,
      turns := t.turns, schedule := t.schedule, ret := t.ret }) : t.Sound := by
  rw [ht]
  exact ⟨h.acc, h.fps, h.inert, h.drained, h.shape, h.items, h.deliveries⟩

theorem State.Sound.endTurn {s : State} (h : s.Sound) : s.endTurn.Sound := h.of_frame rfl

theorem State.Sound.consume {s : State} (h : s.Sound) : s.consume.Sound := h.of_frame rfl

theorem State.Sound.recordRefusal {s : State} (h : s.Sound) (r : RefusalReason) : (s.recordRefusal r).Sound :=
  h.of_frame rfl

theorem State.Sound.hostMove {s : State} (h : s.Sound) : (hostMove s).Sound :=
  h.of_frame (by rw [hostMove_frame])

/-- What is left of one event's items once the first is taken is still such a rest. -/
theorem State.PendShape.tail {s t : State} {item : OutItem} (hs : s.pend = item :: t.pend) (h : s.PendShape) :
    t.PendShape := by
  obtain ⟨hlen, hlast⟩ := h
  obtain ⟨hflush, hcount⟩ := hlast (by simp [hs])
  rw [hs] at hlen hflush hcount
  refine ⟨by rw [List.length_cons] at hlen; omega, fun hne => ?_⟩
  obtain ⟨next, rest, ht⟩ := List.exists_cons_of_ne_nil hne
  rw [ht, List.getLast?_cons_cons] at hflush
  have hmem : OutItem.flush ∈ t.pend := by rw [ht]; exact List.mem_of_getLast? hflush
  have hpos := List.count_pos_iff.mpr hmem
  have hle := List.count_le_count_cons (a := OutItem.flush) (b := item) (l := t.pend)
  exact ⟨by rw [ht]; exact hflush, by omega⟩

theorem State.Sound.transportMove {s : State} (h : s.Sound) : (transportMove s).Sound := by
  unfold Machine.transportMove
  split
  next => exact h
  next item rest hp =>
    refine ⟨h.acc, h.fps, h.inert, h.drained, State.PendShape.tail hp h.shape, fun i hi => ?_, fun d hd => ?_⟩
    · exact h.items i (by rw [hp]; exact List.mem_cons_of_mem _ hi)
    · obtain hd | hd := List.mem_append.mp hd
      · exact h.deliveries d hd
      · cases List.mem_singleton.mp hd
        exact legalDelivery_deliver (h.items item (by rw [hp]; exact List.mem_cons_self))

theorem State.Sound.of_exec_reset {s t : State} (h : s.Sound) (ht : exec .reset s = .next t) : t.Sound := by
  have hregs : ∀ ch : Channel, (Vector.replicate 8 0#16)[ch].toInt = 0 := by decide
  have hzero : ∀ ch : Channel, t.accVal ch = 0 := by cases ht; exact hregs
  have hbound : t.AccBounded := fun ch => by rw [hzero ch]; decide
  cases ht
  exact ⟨hbound, (by decide : 0b00#2 ≠ 0b11#2), ⟨fun _ => ⟨rfl, rfl, rfl, rfl⟩, fun _ => ⟨rfl, rfl⟩⟩,
    fun _ => hzero, ⟨Nat.zero_le _, fun hne => absurd rfl hne⟩, fun _ hi => (List.not_mem_nil hi).elim,
    h.deliveries⟩

/-- Under QUAD soundness leaves the accumulators free within their bounds, and PHASE and PHASE_VALID free. -/
theorem State.Sound.of_quad_frame {s t : State} (h : s.Sound) (hq : s.cfg.variant = .quad)
    (ht : t = { s with acc := t.acc, phase := t.phase, phaseValid := t.phaseValid, pend := t.pend })
    (hacc : t.AccBounded) (hshape : t.PendShape) (hitems : ∀ item ∈ t.pend, legalItem s.cfg item = true) :
    t.Sound := by
  have hcfg : t.cfg = s.cfg := by rw [ht]
  refine ⟨hacc, by rw [ht]; exact h.fps, ?_, ?_, hshape, by rw [hcfg]; exact hitems,
    by rw [ht]; exact h.deliveries⟩
  · refine ⟨fun _ => ?_, fun hs => ?_⟩
    · rw [ht]; exact h.inert.1 hq
    · rw [hcfg, hq] at hs; cases hs
  · intro hs; rw [hcfg, hq] at hs; cases hs

theorem State.Sound.scanEdges {s : State} (h : s.Sound) (hq : s.cfg.variant = .quad) (a b : Byte) :
    (scanEdges a b s).Sound := by
  obtain ⟨-, hacc, hframe⟩ := scanEdges_spec a b s
  have hpend : (Machine.scanEdges a b s).pend = s.pend := by rw [hframe]
  refine h.of_quad_frame hq (by rw [hframe]) (fun c => ?_) ?_ (by rw [hpend]; exact h.items)
  · rw [hacc c]; exact edgeOp_bounded h.acc _ c
  · rw [hframe]; exact h.shape

theorem State.Sound.prime {s : State} (h : s.Sound) (hq : s.cfg.variant = .quad) (a b : Byte) :
    (prime a b s).Sound := by
  obtain ⟨-, hframe⟩ := prime_spec a b s
  have hacc : (Machine.prime a b s).acc = s.acc := by rw [hframe]
  have hpend : (Machine.prime a b s).pend = s.pend := by rw [hframe]
  refine h.of_quad_frame hq (by rw [hframe]) (fun c => ?_) ?_ (by rw [hpend]; exact h.items)
  · rw [State.accVal, hacc]; exact h.acc c
  · rw [State.PendShape, hpend]; exact h.shape

theorem State.Sound.tick {s : State} (h : s.Sound) (hq : s.cfg.variant = .quad) (hc : configOk s.cfg = true)
    (hpend : s.pend = []) : (tick s).Sound := by
  obtain ⟨hacc, -, hframe⟩ := tick_spec s
  have hreport := isEventReport_tick hc h.acc hpend
  exact h.of_quad_frame hq (by rw [hframe]) (fun c => by rw [hacc c]; omega) hreport.pendShape hreport.legal

/-- Under SERIAL a state whose frame registers alone are written stays sound while FPS is not 11 (R86). -/
theorem State.Sound.of_serial_frame {s : State} (h : s.Sound) (hs : s.cfg.variant = .serial) (fch : BitVec 3)
    (fhi : Byte) {fps : BitVec 2} (hfps : fps ≠ 0b11#2) : ({ s with fch := fch, fhi := fhi, fps := fps }).Sound :=
  ⟨h.acc, hfps, ⟨fun hq => absurd (hs.symm.trans hq) (by decide), h.inert.2⟩, h.drained, h.shape, h.items,
    h.deliveries⟩

theorem State.Sound.completeFrame {s : State} (h : s.Sound) (hs : s.cfg.variant = .serial)
    (hc : configOk s.cfg = true) (hpend : s.pend = []) (lo : Byte) : (completeFrame lo s).Sound := by
  have hspec := completeFrame_spec lo s
  have hacc : ∀ c, (Machine.completeFrame lo s).accVal c = 0 := fun c => by
    rw [State.accVal_of_acc_set_zero s _ (channelOf s.fch) (by rw [hspec]), h.drained hs c, ite_self]
  have hreport : IsEventReport s.cfg (Machine.completeFrame lo s).pend := by
    rw [hspec, hpend, List.nil_append]
    exact isEventReport_reportOf hc _ (sat_bounds _)
  have hcfg : (Machine.completeFrame lo s).cfg = s.cfg := by rw [hspec]
  have hfps : (Machine.completeFrame lo s).fps = 0b00#2 := by rw [hspec]
  refine ⟨fun c => by rw [hacc c]; omega, by rw [hfps]; decide, ⟨fun hq => ?_, fun _ => ?_⟩, fun _ => hacc,
    hreport.pendShape, by rw [hcfg]; exact hreport.legal, by rw [hspec]; exact h.deliveries⟩
  · rw [hcfg, hs] at hq; cases hq
  · rw [hspec]; exact h.inert.2 hs

theorem State.Sound.of_takeEvent {w : EventWord} {s t : State} (h : s.Sound) (hpend : s.pend = [])
    (ht : takeEvent w s = .next t) : t.Sound := by
  obtain ⟨r, rfl⟩ | ⟨a, b, -, hq, ⟨-, rfl⟩ | ⟨-, rfl⟩⟩ | ⟨-, hq, hc, rfl⟩ | ⟨byte, -, hs, hrx⟩ := takeEvent_cases ht
  · exact h.recordRefusal r
  · exact h.scanEdges hq a b
  · exact h.prime hq a b
  · exact h.tick hq hc hpend
  · obtain ⟨-, -, rfl⟩ | ⟨-, -, rfl⟩ | ⟨-, rfl⟩ | ⟨-, hc, rfl⟩ := hrx
    · exact h.of_serial_frame hs _ _ (by decide)
    · exact h
    · exact h.of_serial_frame hs _ _ (by decide)
    · exact h.completeFrame hs hc hpend byte

theorem State.Sound.of_blockMove {s t : State} (h : s.Sound) (ht : blockMove s = .next t) : t.Sound := by
  obtain rfl | ⟨w, -, hpend, -, ⟨-, rfl⟩ | ⟨-, ht⟩⟩ := blockMove_cases ht
  · exact h
  · exact h.recordRefusal .badConfig
  · exact h.consume.of_takeEvent hpend ht

/-- Settles O51: RESET and the move of each agent keep soundness; the Block's, because an event is taken only
with PEND empty, so that PEND is then the report of that event. -/
theorem everyStepKeepsSoundness : Obligations.EveryStepKeepsSoundness := by
  intro s t h ht
  obtain ⟨-, ht⟩ | ⟨-, ⟨-, rfl⟩ | ⟨-, rfl⟩ | ⟨-, ht⟩⟩ := step_cases ht
  · exact State.Sound.of_exec_reset (s := { s with resetLine := false }) (h.of_frame rfl) ht
  · exact h.endTurn.hostMove
  · exact h.endTurn.transportMove
  · exact h.endTurn.of_blockMove ht

/-! ### States that differ in scratch values only (R16, R20, R21) -/

/-- The state with FCH, FHI and PHASE replaced, the registers whose value can mean nothing. -/
def State.withScratch (s : State) (fch : BitVec 3) (fhi : Byte) (phase : Vector (BitVec 2) 8) : State :=
  { s with fch := fch, fhi := fhi, phase := phase }

section
variable (s : State) (fch : BitVec 3) (fhi : Byte) (phase : Vector (BitVec 2) 8)

theorem hostMove_withScratch :
    hostMove (s.withScratch fch fhi phase) = (hostMove s).withScratch fch fhi phase := by
  cases hqueue : s.hostQueue with
  | nil => simp [hostMove, State.withScratch, hqueue]
  | cons act rest =>
    cases act with
    | reset => simp [hostMove, State.withScratch, hqueue]
    | event w => cases hport : s.port <;> simp [hostMove, State.withScratch, hqueue, hport]

theorem transportMove_withScratch :
    transportMove (s.withScratch fch fhi phase) = (transportMove s).withScratch fch fhi phase := by
  cases hpend : s.pend <;> simp [transportMove, State.withScratch, hpend]

end

theorem SameButScratch.exists_withScratch {s t : State} (h : SameButScratch s t) :
    ∃ fch fhi phase, t = s.withScratch fch fhi phase ∧
      (s.fps = 0b01#2 ∨ s.fps = 0b10#2 → fch = s.fch) ∧ (s.fps = 0b10#2 → fhi = s.fhi) ∧
      (s.phaseValid = true → phase = s.phase) :=
  ⟨t.fch, t.fhi, t.phase, h.rest, h.fch, h.fhi, h.phase⟩

/-- Accumulators that hold the same values are the same registers. -/
theorem State.acc_eq_of_accVal_eq {s t : State} (h : ∀ ch : Channel, s.accVal ch = t.accVal ch) :
    s.acc = t.acc :=
  Vector.ext fun i hi => BitVec.eq_of_toInt_eq (h ⟨i, hi⟩)

theorem State.phase_eq_of_forall {s t : State} (h : ∀ ch : Channel, s.phase[ch] = t.phase[ch]) :
    s.phase = t.phase :=
  Vector.ext fun i hi => h ⟨i, hi⟩

/-- TICK reads and writes no scratch register. -/
theorem tick_withScratch (s : State) (fch : BitVec 3) (fhi : Byte) (phase : Vector (BitVec 2) 8) :
    tick (s.withScratch fch fhi phase) = (tick s).withScratch fch fhi phase := by
  obtain ⟨hzero, hpend, hframe⟩ := tick_spec s
  obtain ⟨hzero', hpend', hframe'⟩ := tick_spec (s.withScratch fch fhi phase)
  have hacc : (tick (s.withScratch fch fhi phase)).acc = (tick s).acc :=
    State.acc_eq_of_accVal_eq fun ch => (hzero' ch).trans (hzero ch).symm
  have hsame : (tick (s.withScratch fch fhi phase)).pend = (tick s).pend := hpend'.trans hpend.symm
  rw [hframe', hacc, hsame, hframe]; rfl

/-- A primed SCAN reads PHASE and neither frame register. -/
theorem scanEdges_withScratch (a b : Byte) (s : State) (fch : BitVec 3) (fhi : Byte) :
    scanEdges a b (s.withScratch fch fhi s.phase) =
      (scanEdges a b s).withScratch fch fhi (scanEdges a b s).phase := by
  refine List.foldl_hom (fun u : State => u.withScratch fch fhi u.phase) fun u ch => ?_
  simp only [scanChannel_spec]
  change (edgeOp (transitionIndex u.phase[ch] (newPhase a b ch)) ch _).setPhase ch _ = _
  unfold edgeOp
  cases edgeKind (transitionIndex u.phase[ch] (newPhase a b ch)) <;> rfl

/-- The first SCAN overwrites PHASE, so that what stood there is lost (R55). -/
theorem prime_withScratch (a b : Byte) (s : State) (fch : BitVec 3) (fhi : Byte) (phase : Vector (BitVec 2) 8) :
    prime a b (s.withScratch fch fhi phase) = (prime a b s).withScratch fch fhi (prime a b s).phase := by
  obtain ⟨hphase, hframe⟩ := prime_spec a b s
  obtain ⟨hphase', hframe'⟩ := prime_spec a b (s.withScratch fch fhi phase)
  have hsame : (prime a b (s.withScratch fch fhi phase)).phase = (prime a b s).phase :=
    State.phase_eq_of_forall fun ch => (hphase' ch).trans (hphase ch).symm
  rw [hframe', hsame, hframe]; rfl

/-- A frame's low byte reads both frame registers and not PHASE. -/
theorem completeFrame_withScratch (lo : Byte) (s : State) (phase : Vector (BitVec 2) 8) :
    completeFrame lo (s.withScratch s.fch s.fhi phase) =
      (completeFrame lo s).withScratch s.fch s.fhi phase := by
  rw [completeFrame_spec, completeFrame_spec]; rfl

/-! ### No step lets a scratch value out (R16, R20, R21, R26) -/

theorem SameButScratch.recordRefusal {s t : State} (h : SameButScratch s t) (r : RefusalReason) :
    SameButScratch (s.recordRefusal r) (t.recordRefusal r) := by
  obtain ⟨fch, fhi, phase, rfl, hfch, hfhi, hphase⟩ := h.exists_withScratch
  exact ⟨rfl, hfch, hfhi, hphase⟩

theorem SameButScratch.hostMove {s t : State} (h : SameButScratch s t) :
    SameButScratch (hostMove s) (hostMove t) := by
  obtain ⟨fch, fhi, phase, rfl, hfch, hfhi, hphase⟩ := h.exists_withScratch
  rw [hostMove_withScratch, hostMove_frame]
  exact ⟨rfl, hfch, hfhi, hphase⟩

theorem SameButScratch.transportMove {s t : State} (h : SameButScratch s t) :
    SameButScratch (transportMove s) (transportMove t) := by
  obtain ⟨fch, fhi, phase, rfl, hfch, hfhi, hphase⟩ := h.exists_withScratch
  rw [transportMove_withScratch, transportMove_frame]
  exact ⟨rfl, hfch, hfhi, hphase⟩

theorem SameButScratch.tick {s t : State} (h : SameButScratch s t) : SameButScratch (tick s) (tick t) := by
  obtain ⟨fch, fhi, phase, rfl, hfch, hfhi, hphase⟩ := h.exists_withScratch
  rw [tick_withScratch, (tick_spec s).2.2]
  exact ⟨rfl, hfch, hfhi, hphase⟩

theorem SameButScratch.scanEdges {s t : State} (h : SameButScratch s t) (hvalid : s.phaseValid = true)
    (a b : Byte) : SameButScratch (scanEdges a b s) (scanEdges a b t) := by
  obtain ⟨fch, fhi, phase, rfl, hfch, hfhi, hphase⟩ := h.exists_withScratch
  rw [hphase hvalid, scanEdges_withScratch, (scanEdges_spec a b s).2.2]
  exact ⟨rfl, hfch, hfhi, fun _ => rfl⟩

theorem SameButScratch.prime {s t : State} (h : SameButScratch s t) (a b : Byte) :
    SameButScratch (prime a b s) (prime a b t) := by
  obtain ⟨fch, fhi, phase, rfl, hfch, hfhi, -⟩ := h.exists_withScratch
  rw [prime_withScratch, (prime_spec a b s).2]
  exact ⟨rfl, hfch, hfhi, fun _ => rfl⟩

theorem SameButScratch.completeFrame {s t : State} (h : SameButScratch s t) (hlow : s.fps = 0b10#2)
    (lo : Byte) : SameButScratch (completeFrame lo s) (completeFrame lo t) := by
  obtain ⟨fch, fhi, phase, rfl, hfch, hfhi, hphase⟩ := h.exists_withScratch
  rw [hfch (.inr hlow), hfhi hlow, completeFrame_withScratch, completeFrame_spec]
  exact ⟨rfl, fun _ => rfl, fun _ => rfl, hphase⟩

theorem SameOutcome.withBase {s t : State} (h : SameButScratch s t) (ok : Bool) :
    SameOutcome (withBase ok s) (withBase ok t) := by
  cases ok with
  | false => rfl
  | true => exact h

theorem execScan_sameOutcome {s t : State} (h : SameButScratch s t) (a b : Byte) :
    SameOutcome (execScan a b s) (execScan a b t) := by
  have hcfg : t.cfg = s.cfg := by rw [h.rest]
  have hvalid : t.phaseValid = s.phaseValid := by rw [h.rest]
  unfold execScan
  rw [hcfg, hvalid]
  split_ifs with hq hp
  · rfl
  · exact h.scanEdges hp a b
  · exact h.prime a b

theorem execTick_sameOutcome {s t : State} (h : SameButScratch s t) : SameOutcome (execTick s) (execTick t) := by
  have hcfg : t.cfg = s.cfg := by rw [h.rest]
  unfold execTick
  rw [hcfg]
  split_ifs with hq
  · rfl
  · exact .withBase h.tick _

theorem execRxChan_sameOutcome {s t : State} (h : SameButScratch s t) (ch : BitVec 3) :
    SameOutcome (execRxChan ch s) (execRxChan ch t) := by
  obtain ⟨fch, fhi, phase, rfl, -, -, hphase⟩ := h.exists_withScratch
  exact ⟨rfl, fun _ => rfl, fun hlow => absurd hlow (by decide : 0b01#2 ≠ 0b10#2), hphase⟩

theorem execRxHigh_sameOutcome {s t : State} (h : SameButScratch s t) (hhigh : s.fps = 0b01#2) (hi : Byte) :
    SameOutcome (execRxHigh hi s) (execRxHigh hi t) := by
  obtain ⟨fch, fhi, phase, rfl, hfch, -, hphase⟩ := h.exists_withScratch
  exact ⟨rfl, fun _ => hfch (.inl hhigh), fun _ => rfl, hphase⟩

theorem execRx_sameOutcome {s t : State} (h : SameButScratch s t) (byte : Byte) :
    SameOutcome (execRx byte s) (execRx byte t) := by
  have hcfg : t.cfg = s.cfg := by rw [h.rest]
  have hfps : t.fps = s.fps := by rw [h.rest]
  unfold execRx
  rw [hcfg, hfps]
  split_ifs with hs h0 hbyte h1 h2
  · rfl
  · exact execRxChan_sameOutcome h _
  · exact h
  · exact execRxHigh_sameOutcome h h1 byte
  · rw [execRxLow, execRxLow, hcfg]; exact .withBase (h.completeFrame h2 byte) _
  · rfl

/-- Two outcomes of the same kind: every way they can be so. -/
theorem SameOutcome.cases {o p : Host.Outcome State Fault Refusal} (h : SameOutcome o p) :
    (∃ u v, o = .next u ∧ p = .next v ∧ SameButScratch u v) ∨
    (∃ f, o = .fault f ∧ p = .fault f) ∨ (∃ r, o = .refused r ∧ p = .refused r) := by
  cases o with
  | next u => cases p with
    | next v => exact .inl ⟨u, v, rfl, rfl, h⟩
    | fault f => exact h.elim
    | refused r => exact h.elim
  | fault f => cases p with
    | next v => exact h.elim
    | fault g => exact .inr (.inl ⟨f, rfl, congrArg _ (Eq.symm h)⟩)
    | refused r => exact h.elim
  | refused r => cases p with
    | next v => exact h.elim
    | fault f => exact h.elim
    | refused q => exact .inr (.inr ⟨r, rfl, congrArg _ (Eq.symm h)⟩)

/-- Recording a refusal lets no scratch value out either. -/
theorem SameOutcome.settle {s t : State} {o p : Host.Outcome State Fault Refusal} (h : SameButScratch s t)
    (ho : SameOutcome o p) : SameOutcome (settle s o) (settle t p) := by
  obtain ⟨u, v, rfl, rfl, huv⟩ | ⟨f, rfl, rfl⟩ | ⟨r, rfl, rfl⟩ := ho.cases
  · exact huv
  · rfl
  · cases r with
    | notModelled mnemonic => rfl
    | because reason => exact h.recordRefusal reason

theorem takeEvent_sameOutcome {s t : State} (h : SameButScratch s t) (w : EventWord) :
    SameOutcome (takeEvent w s) (takeEvent w t) := by
  have hcfg : t.cfg = s.cfg := by rw [h.rest]
  unfold takeEvent
  cases hd : decodeEv w with
  | error e => simp only [hcfg]; exact h.recordRefusal _
  | ok i =>
    refine SameOutcome.settle h ?_
    obtain ⟨a, b, -, rfl⟩ | ⟨byte, -, rfl⟩ | ⟨-, rfl⟩ | ⟨p1, p0, -, rfl⟩ := decodeEv_cases hd
    · exact execScan_sameOutcome h a b
    · exact execRx_sameOutcome h byte
    · exact execTick_sameOutcome h
    · rfl

theorem SameButScratch.endTurn {s t : State} (h : SameButScratch s t) : SameButScratch s.endTurn t.endTurn := by
  obtain ⟨fch, fhi, phase, rfl, hfch, hfhi, hphase⟩ := h.exists_withScratch
  exact ⟨rfl, hfch, hfhi, hphase⟩

theorem SameButScratch.consume {s t : State} (h : SameButScratch s t) : SameButScratch s.consume t.consume := by
  obtain ⟨fch, fhi, phase, rfl, hfch, hfhi, hphase⟩ := h.exists_withScratch
  exact ⟨rfl, hfch, hfhi, hphase⟩

theorem blockMove_sameOutcome {s t : State} (h : SameButScratch s t) : SameOutcome (blockMove s) (blockMove t) := by
  have hport : t.port = s.port := by rw [h.rest]
  have hcfg : t.cfg = s.cfg := by rw [h.rest]
  have hhold : (t.refusalRecorded || t.holding) = (s.refusalRecorded || s.holding) := by rw [h.rest]; rfl
  unfold blockMove
  rw [hport, hcfg, hhold]
  cases s.port with
  | none => exact h
  | some w =>
    dsimp only
    split_ifs with hheld hc
    · exact h
    · exact takeEvent_sameOutcome h.consume w
    · exact h.recordRefusal .badConfig

theorem step_of_line_high {s : State} (h : s.resetLine = true) :
    step s = exec .reset { s with resetLine := false } := by
  unfold step; rw [h]; rfl

theorem step_sameOutcome {s t : State} (h : SameButScratch s t) : SameOutcome (step s) (step t) := by
  have hline : t.resetLine = s.resetLine := by rw [h.rest]
  have hagent : t.nextAgent = s.nextAgent := by rw [h.rest]; rfl
  cases hr : s.resetLine with
  | true =>
    rw [step_of_line_high hr, step_of_line_high (hline.trans hr), h.rest]
    exact ⟨rfl, fun _ => rfl, fun _ => rfl, fun _ => rfl⟩
  | false =>
    rw [step_of_line_low hr, step_of_line_low (hline.trans hr), hagent]
    cases s.nextAgent with
    | host => exact h.endTurn.hostMove
    | transport => exact h.endTurn.transportMove
    | block => exact blockMove_sameOutcome h.endTurn

/-- Settles O54, by induction on the number of steps: each step of the two runs has the same outcome, and next
states that again differ in scratch values only. -/
theorem scratchValuesAreUnobservable : Obligations.ScratchValuesAreUnobservable := by
  intro n
  induction n with
  | zero => intro s t h; exact h
  | succ n ih =>
    intro s t h
    obtain ⟨u, v, hu, hv, huv⟩ | ⟨f, hs, ht⟩ | ⟨r, hs, ht⟩ := (step_sameOutcome h).cases
    · rw [steps_of_next hu, steps_of_next hv]; exact ih u v huv
    · rw [steps, steps, hs, ht]; rfl
    · rw [steps, steps, hs, ht]; rfl

/-! ### Who may write which register (R14, R17, R18, R23) -/

theorem takeEvent_cfg {w : EventWord} {s t : State} (h : takeEvent w s = .next t) : t.cfg = s.cfg :=
  (takeEvent_frame h).1

theorem blockMove_cfg {s t : State} (h : blockMove s = .next t) : t.cfg = s.cfg := by
  obtain rfl | ⟨w, -, -, -, ⟨-, rfl⟩ | ⟨-, htake⟩⟩ := blockMove_cases h
  · rfl
  · exact s.recordRefusal_cfg .badConfig
  · exact (takeEvent_cfg htake).trans s.consume_cfg

/-- Settles O47: neither RESET nor the move of any agent writes the configuration. -/
theorem configurationIsNeverWritten : Obligations.ConfigurationIsNeverWritten := by
  intro s t h
  obtain ⟨-, hreset⟩ | ⟨-, ⟨-, rfl⟩ | ⟨-, rfl⟩ | ⟨-, hblock⟩⟩ := step_cases h
  · cases hreset; rfl
  · rw [hostMove_frame]; rfl
  · rw [transportMove_frame]; rfl
  · exact (blockMove_cfg hblock).trans s.endTurn_cfg

/-- What the event at the port lets the Block write, from s to t: PREV, PHASE with PHASE_VALID, and ACC. -/
structure WritesByRule (port : Option EventWord) (s t : State) : Prop where
  prev : ∀ c : Channel, t.prev[c] ≠ s.prev[c] →
    s.cfg.variant = .serial ∧ s.fps = 0b10#2 ∧ c.val = s.fch.toNat ∧ ∃ byte, port = some (eventRx byte)
  phase : t.phaseValid ≠ s.phaseValid ∨ t.phase ≠ s.phase →
    s.cfg.variant = .quad ∧ t.phaseValid = true ∧ ∃ a b, port = some (eventScan a b)
  acc : t.acc ≠ s.acc →
    (s.cfg.variant = .quad ∧ ((∃ a b, port = some (eventScan a b)) ∨ port = some eventTick)) ∨
    (s.cfg.variant = .serial ∧ s.fps = 0b10#2 ∧ ∃ byte, port = some (eventRx byte))

/-- What writes none of the registers obeys the rules. -/
theorem WritesByRule.of_unchanged {port : Option EventWord} {s t : State} (hprev : t.prev = s.prev)
    (hvalid : t.phaseValid = s.phaseValid) (hphase : t.phase = s.phase) (hacc : t.acc = s.acc) :
    WritesByRule port s t :=
  ⟨fun _ hne => absurd (by rw [hprev]) hne, fun hne => (hne.elim (· hvalid) (· hphase)).elim,
    fun hne => absurd hacc hne⟩

theorem scanEdges_writesByRule {s : State} (hq : s.cfg.variant = .quad) (hvalid : s.phaseValid = true)
    (a b : Byte) : WritesByRule (some (eventScan a b)) s (scanEdges a b s) := by
  rw [(scanEdges_spec a b s).2.2]
  exact ⟨fun _ hne => absurd rfl hne, fun _ => ⟨hq, hvalid, a, b, rfl⟩, fun _ => .inl ⟨hq, .inl ⟨a, b, rfl⟩⟩⟩

theorem prime_writesByRule {s : State} (hq : s.cfg.variant = .quad) (a b : Byte) :
    WritesByRule (some (eventScan a b)) s (prime a b s) := by
  rw [(prime_spec a b s).2]
  exact ⟨fun _ hne => absurd rfl hne, fun _ => ⟨hq, rfl, a, b, rfl⟩, fun hne => absurd rfl hne⟩

theorem tick_writesByRule {s : State} (hq : s.cfg.variant = .quad) :
    WritesByRule (some eventTick) s (tick s) := by
  rw [(tick_spec s).2.2]
  exact ⟨fun _ hne => absurd rfl hne, fun hne => (hne.elim (· rfl) (· rfl)).elim, fun _ => .inl ⟨hq, .inr rfl⟩⟩

/-- A frame's low byte writes PREV on the frame's channel only (R69). -/
theorem completeFrame_writesByRule {s : State} (hs : s.cfg.variant = .serial) (hlow : s.fps = 0b10#2)
    (lo : Byte) : WritesByRule (some (eventRx lo)) s (completeFrame lo s) := by
  rw [completeFrame_spec]
  refine ⟨fun c hne => ⟨hs, hlow, ?_, lo, rfl⟩, fun hne => (hne.elim (· rfl) (· rfl)).elim,
    fun _ => .inr ⟨hs, hlow, lo, rfl⟩⟩
  by_contra hch
  exact hne (Vector.getElem_set_ne (channelOf s.fch).isLt c.isLt fun e => hch e.symm)

theorem takeEvent_writesByRule {w : EventWord} {s t : State} (h : takeEvent w s = .next t) :
    WritesByRule (some w) s t := by
  obtain ⟨r, rfl⟩ | ⟨a, b, rfl, hq, ⟨hvalid, rfl⟩ | ⟨-, rfl⟩⟩ | ⟨rfl, hq, -, rfl⟩ | ⟨byte, rfl, hs, hrx⟩ :=
    takeEvent_cases h
  · exact .of_unchanged rfl rfl rfl rfl
  · exact scanEdges_writesByRule hq hvalid a b
  · exact prime_writesByRule hq a b
  · exact tick_writesByRule hq
  · obtain ⟨-, -, rfl⟩ | ⟨-, -, rfl⟩ | ⟨-, rfl⟩ | ⟨hlow, -, rfl⟩ := hrx
    · exact .of_unchanged rfl rfl rfl rfl
    · exact .of_unchanged rfl rfl rfl rfl
    · exact .of_unchanged rfl rfl rfl rfl
    · exact completeFrame_writesByRule hs hlow byte

theorem blockMove_writesByRule {s t : State} (h : blockMove s = .next t) : WritesByRule s.port s t := by
  obtain rfl | ⟨w, hport, -, -, ⟨-, rfl⟩ | ⟨-, htake⟩⟩ := blockMove_cases h
  · exact .of_unchanged rfl rfl rfl rfl
  · exact .of_unchanged rfl rfl rfl rfl
  · rw [hport]
    obtain ⟨hprev, hphase, hacc⟩ := takeEvent_writesByRule htake
    exact ⟨hprev, hphase, hacc⟩

/-- Settles O48: the Host and the Transport write none of these registers, and the Block writes them only under
the event it takes from the port. -/
theorem registersAreWrittenOnlyByTheirRules : Obligations.RegistersAreWrittenOnlyByTheirRules := by
  intro s t hline h
  suffices hrule : WritesByRule s.port s t from ⟨hrule.prev, hrule.phase, hrule.acc⟩
  obtain ⟨hhigh, -⟩ | ⟨-, ⟨-, rfl⟩ | ⟨-, rfl⟩ | ⟨-, hblock⟩⟩ := step_cases h
  · rw [hline] at hhigh; cases hhigh
  · rw [hostMove_frame]; exact .of_unchanged rfl rfl rfl rfl
  · rw [transportMove_frame]; exact .of_unchanged rfl rfl rfl rfl
  · obtain ⟨hprev, hphase, hacc⟩ := blockMove_writesByRule hblock
    exact ⟨hprev, hphase, hacc⟩

end Sys2Proof.Machine
end

section
/-! PROOFS. The statements of 20_memory.md: what a step does on the turn of each agent (R12), the input port (R28,
R88) and the output port (R29), and the order of SCAN and TICK in one iteration (R34). -/

namespace Sys2Proof.Machine

/-! ### The output port (R29) -/

theorem transportMove_of_pend_cons {s : State} {item : OutItem} {rest : List OutItem} (h : s.pend = item :: rest) :
    transportMove s = { s with pend := rest, delivered := s.delivered ++ [deliver item] } := by
  rw [transportMove, h]

theorem transportMove_of_pend_nil {s : State} (h : s.pend = []) : transportMove s = s := by
  rw [transportMove, h]

theorem step_of_transport_turn {s : State} (hline : s.resetLine = false) (hturn : s.nextAgent = .transport) :
    step s = .next (transportMove s.endTurn) := by
  rw [step_of_line_low hline]; simp only [hturn]

/-- Settles O43: on its turn the step is the Transport's move, which looks at PEND alone. -/
theorem transportTakesTheHead : Obligations.TransportTakesTheHead := by
  intro s hline hturn
  rw [step_of_transport_turn hline hturn]
  refine ⟨fun item rest hpend => ?_, fun hpend => ?_⟩
  · rw [transportMove_of_pend_cons (s := s.endTurn) hpend]; rfl
  · rw [transportMove_of_pend_nil (s := s.endTurn) hpend]

/-! ### The Host's side of the input port (R28, R88) -/

theorem hostMove_of_queue_nil {s : State} (h : s.hostQueue = []) : hostMove s = s := by
  rw [hostMove, h]

theorem hostMove_of_queue_reset {s : State} {rest : List HostAct} (h : s.hostQueue = .reset :: rest) :
    hostMove s = { s with resetLine := true, hostQueue := rest } := by
  rw [hostMove, h]

theorem hostMove_of_port_free {s : State} {w : EventWord} {rest : List HostAct}
    (h : s.hostQueue = .event w :: rest) (hport : s.port = none) :
    hostMove s = { s with port := some w, hostQueue := rest } := by
  simp only [hostMove, h, hport]

theorem hostMove_of_port_taken {s : State} {w : EventWord} {rest : List HostAct}
    (h : s.hostQueue = .event w :: rest) (hport : s.port ≠ none) : hostMove s = s := by
  obtain ⟨v, hv⟩ := Option.ne_none_iff_exists'.mp hport
  simp only [hostMove, h, hv]

theorem step_of_host_turn {s : State} (hline : s.resetLine = false) (hturn : s.nextAgent = .host) :
    step s = .next (hostMove s.endTurn) := by
  rw [step_of_line_low hline]; simp only [hturn]

/-- Settles O44: on its turn the step is the Host's move, by what stands next in its queue and at the port. -/
theorem hostPresentsOnlyAtAFreePort : Obligations.HostPresentsOnlyAtAFreePort := by
  intro s hline hturn
  rw [step_of_host_turn hline hturn]
  refine ⟨fun w rest hqueue hport => ?_, fun w rest hqueue hport => ?_, fun rest hqueue => ?_, fun hqueue => ?_⟩
  · rw [hostMove_of_port_free (s := s.endTurn) hqueue hport]
  · rw [hostMove_of_port_taken (s := s.endTurn) hqueue hport]
  · rw [hostMove_of_queue_reset (s := s.endTurn) hqueue]
  · rw [hostMove_of_queue_nil (s := s.endTurn) hqueue]

/-! ### A taken event (R28) -/

theorem takeEvent_of_decodeEv {w : EventWord} {i : Instr} (h : decodeEv w = .ok i) (s : State) :
    takeEvent w s = settle s (exec i s) := by
  rw [takeEvent, h]

theorem blockMove_of_free {s : State} {w : EventWord} (hport : s.port = some w) (hpend : s.pend = [])
    (hrefusal : s.refusal = none) (hcfg : configOk s.cfg = true) : blockMove s = takeEvent w s.consume := by
  have hfree : (s.refusalRecorded || s.holding) = false := by
    simp [State.refusalRecorded, State.holding, hpend, hrefusal]
  simp [blockMove, hport, hfree, hcfg]

theorem State.Takes.step_eq {s : State} {w : EventWord} (h : s.Takes w) :
    step s = takeEvent w s.endTurn.consume := by
  rw [step_of_block_turn h.line h.turn]
  exact blockMove_of_free (s := s.endTurn) h.port h.pend h.refusal h.config

theorem State.recordRefusal_of_none {s : State} (h : s.refusal = none) (r : RefusalReason) :
    s.recordRefusal r = { s with refusal := some r } := by
  rw [State.recordRefusal, h]; rfl

/-- Settles O38: the taken event runs as `exec` of its operation, and each outcome is settled as R13 says. -/
theorem stepRunsThePresentedEvent : Obligations.StepRunsThePresentedEvent := by
  intro s w i htakes hdecode _
  have hconsume : exec i { s.endTurn with port := none } = exec i s.endTurn.consume := rfl
  rw [htakes.step_eq, takeEvent_of_decodeEv hdecode, hconsume]
  cases exec i s.endTurn.consume with
  | next t => rfl
  | fault f => rfl
  | refused r =>
    cases r with
    | notModelled m => rfl
    | because r =>
      exact congrArg Host.Outcome.next
        (State.recordRefusal_of_none (s := s.endTurn.consume) htakes.refusal r)

/-! ### A SCAN does not look at the Host's queue (R54) -/

/-- The state with another list of what the Host will do. -/
def State.withQueue (s : State) (q : List HostAct) : State := { s with hostQueue := q }

/-- What SCAN makes of the state under QUAD: edges once primed, else the priming (R54, R55). -/
def scanned (a b : Byte) (s : State) : State := if s.phaseValid then scanEdges a b s else prime a b s

theorem exec_scan_of_quad {s : State} (hq : s.cfg.variant = .quad) (a b : Byte) :
    exec (.scan a b) s = .next (scanned a b s) := by
  change execScan a b s = _
  obtain ⟨hne, -⟩ | ⟨-, hvalid, h⟩ | ⟨-, hvalid, h⟩ := execScan_cases a b s
  · exact absurd hq hne
  · rw [h, scanned, if_pos hvalid]
  · rw [h, scanned, hvalid]; rfl

theorem scanned_frame (a b : Byte) (s : State) :
    scanned a b s =
      { s with acc := (scanned a b s).acc, phase := (scanned a b s).phase, phaseValid := true } := by
  cases hvalid : s.phaseValid with
  | true =>
    have h : scanned a b s = scanEdges a b s := if_pos hvalid
    rw [h, ← hvalid]; exact (scanEdges_spec a b s).2.2
  | false =>
    have h : scanned a b s = prime a b s := by rw [scanned, hvalid]; rfl
    rw [h, (prime_spec a b s).2]

theorem edgeOp_withQueue (t : BitVec 4) (ch : Channel) (s : State) (q : List HostAct) :
    edgeOp t ch (s.withQueue q) = (edgeOp t ch s).withQueue q := by
  unfold edgeOp
  cases edgeKind t <;> rfl

theorem scanChannel_withQueue (a b : Byte) (s : State) (q : List HostAct) (ch : Channel) :
    scanChannel a b (s.withQueue q) ch = (scanChannel a b s ch).withQueue q := by
  rw [scanChannel_spec, scanChannel_spec]
  exact congrArg (State.setPhase · ch (newPhase a b ch)) (edgeOp_withQueue _ ch s q)

theorem scanEdges_withQueue (a b : Byte) (s : State) (q : List HostAct) :
    scanEdges a b (s.withQueue q) = (scanEdges a b s).withQueue q :=
  List.foldl_hom (State.withQueue · q) fun u ch => scanChannel_withQueue a b u q ch

theorem prime_withQueue (a b : Byte) (s : State) (q : List HostAct) :
    prime a b (s.withQueue q) = (prime a b s).withQueue q :=
  congrArg (fun u : State => { u with phaseValid := true })
    (List.foldl_hom (State.withQueue · q) fun _ _ => rfl)

theorem scanned_withQueue (a b : Byte) (s : State) (q : List HostAct) :
    scanned a b (s.withQueue q) = (scanned a b s).withQueue q := by
  unfold scanned
  change (if s.phaseValid then _ else _) = _
  split_ifs
  · exact scanEdges_withQueue a b s q
  · exact prime_withQueue a b s q

/-! ### Events presented one after the other under the default order (R28, R34) -/

/-- Nothing is in the way of the Host's next event: under the default order of turns the Host presents it and the
Block takes it (R28). -/
structure State.Idle (s : State) : Prop where
  line : s.resetLine = false
  turns : s.turns = []
  schedule : s.schedule = .byDefault
  pend : s.pend = []
  refusal : s.refusal = none
  port : s.port = none
  config : configOk s.cfg = true

theorem State.Idle.withQueue {s : State} (h : s.Idle) (q : List HostAct) : (s.withQueue q).Idle :=
  ⟨h.line, h.turns, h.schedule, h.pend, h.refusal, h.port, h.config⟩

theorem State.Idle.scanned {s : State} (h : s.Idle) (a b : Byte) : (scanned a b s).Idle := by
  rw [scanned_frame]
  exact ⟨h.line, h.turns, h.schedule, h.pend, h.refusal, h.port, h.config⟩

/-- The Host's turn: it presents its next event. -/
theorem State.Idle.step_eq {s : State} (h : s.Idle) {w : EventWord} {rest : List HostAct}
    (hqueue : s.hostQueue = .event w :: rest) :
    step s = .next { s with port := some w, hostQueue := rest } := by
  obtain ⟨hagent, hturn⟩ := State.nextAgent_of_default h.turns h.schedule
  have hhost : s.defaultAgent = .host := by simp [State.defaultAgent, State.holding, h.pend, h.port]
  rw [step_of_host_turn h.line (hagent.trans hhost), hturn, hostMove_of_port_free hqueue h.port]

/-- The Block's turn: it takes the event just presented, from the state the Host found but for its queue. -/
theorem State.Idle.takes {s t : State} (h : s.Idle) {w : EventWord} {rest : List HostAct}
    (ht : t = { s with port := some w, hostQueue := rest }) :
    t.Takes w ∧ t.endTurn.consume = s.withQueue rest := by
  subst ht
  obtain ⟨hagent, hturn⟩ :=
    State.nextAgent_of_default (s := { s with port := some w, hostQueue := rest }) h.turns h.schedule
  refine ⟨⟨h.line, hagent.trans ?_, rfl, h.pend, h.refusal, h.config⟩, ?_⟩
  · simp [State.defaultAgent, State.holding, State.refusalRecorded, h.pend, h.refusal]
  · rw [hturn, State.consume, State.withQueue, ← h.port]

theorem steps_two_of_next {s t : State} (h : step s = .next t) : steps 2 s = step t := by
  rw [steps_of_next h, steps]
  cases step t <;> rfl

/-- Two steps present the Host's next event and take it. -/
theorem State.Idle.steps_two {s : State} (h : s.Idle) {w : EventWord} {rest : List HostAct}
    (hqueue : s.hostQueue = .event w :: rest) : steps 2 s = takeEvent w (s.withQueue rest) := by
  obtain ⟨htakes, hconsume⟩ := h.takes (w := w) (rest := rest) rfl
  rw [steps_two_of_next (h.step_eq hqueue), htakes.step_eq, hconsume]

theorem decodeEv_eventScan (a b : Byte) : decodeEv (eventScan a b) = .ok (.scan a b) := by
  simp [decodeEv, eventScan]

theorem decodeEv_eventTick : decodeEv eventTick = .ok .tick := by decide

theorem exec_tick_of_configOk {s : State} (hq : s.cfg.variant = .quad) (hc : configOk s.cfg = true) :
    exec .tick s = .next (tick s) := by
  rw [exec_tick_of_quad hq, hc]; rfl

/-- Settles O45: two steps run the SCAN, which leaves the machine idle with the TICK next in the queue, and two
more run the TICK on the state the SCAN left. -/
theorem tickSeesTheSampleOfItsIteration : Obligations.TickSeesTheSampleOfItsIteration := by
  intro a b s hq hc hpend hrefusal hport hline hturns hschedule hqueue
  have hidle : s.Idle := ⟨hline, hturns, hschedule, hpend, hrefusal, hport, hc⟩
  have hscan (q : List HostAct) : exec (.scan a b) (s.withQueue q) = .next ((scanned a b s).withQueue q) := by
    rw [← scanned_withQueue]; exact exec_scan_of_quad (s := s.withQueue q) hq a b
  have hcfg : (scanned a b s).cfg = s.cfg := by rw [scanned_frame]
  have htick : exec .tick ((scanned a b s).withQueue []) = .next (tick ((scanned a b s).withQueue [])) :=
    exec_tick_of_configOk (by rw [← hq, ← hcfg]; rfl) (by rw [← hc, ← hcfg]; rfl)
  refine ⟨(scanned a b s).withQueue [], tick ((scanned a b s).withQueue []), hscan [], htick, ?_⟩
  have hfirst : steps 2 s = .next ((scanned a b s).withQueue [.event eventTick]) := by
    rw [hidle.steps_two hqueue, takeEvent_of_decodeEv (decodeEv_eventScan a b)]
    exact congrArg (settle _) (hscan [.event eventTick])
  calc steps 4 s
      = steps 2 ((scanned a b s).withQueue [.event eventTick]) := steps_add hfirst 2
    _ = takeEvent eventTick ((scanned a b s).withQueue []) :=
        ((hidle.scanned a b).withQueue _).steps_two rfl
    _ = .next (tick ((scanned a b s).withQueue [])) := by
        rw [takeEvent_of_decodeEv decodeEv_eventTick, htick]; rfl

end Sys2Proof.Machine
end

section
/-! PROOFS. The statements of 30_encoding.md: the five decoders and the encoder undo each other (R38 to R46, R73),
the parser word (R45), the transition table (R44), the snapshot (R40), the serial frame (R46, R47), and the bytes
of a message (R48 to R51). -/

namespace Sys2Proof.Machine

/-! ### Event words (R38 to R43) -/

theorem decodeEv_eventRx (byte : Byte) : decodeEv (eventRx byte) = .ok (.rx byte) := by
  simp [decodeEv, eventRx]

theorem decodeEv_of_evKind_reserved {w : EventWord} (h : evKind w = 0b11#2) :
    decodeEv w = .ok (.reserved (evP1 w) (evP0 w)) := by
  simp [decodeEv, h]

theorem exec_reserved (p1 p0 : Byte) (s : State) :
    exec (.reserved p1 p0) s = .refused (.because .reservedKind) := rfl

/-- Settles O39: KIND = 0b11 is the kind that the decoder's three tests leave. -/
theorem reservedKindIsRefused : Obligations.ReservedKindIsRefused :=
  ⟨fun _ h => decodeEv_of_evKind_reserved h, exec_reserved⟩

/-! ### Parser decode words (R45, R46) -/

/-- A parser word is its two fields. -/
theorem parserWord_fields (w : BitVec 10) : parserWord (w.extractLsb' 8 2) (w.extractLsb' 0 8) = w := by
  unfold parserWord
  rw [BitVec.cast_eq, BitVec.extractLsb'_append_extractLsb'_eq_extractLsb' (by rfl)]
  exact BitVec.extractLsb'_eq_self

/-- Every parser word is {FPS, byte} for some FPS and byte. -/
theorem exists_eq_parserWord (w : BitVec 10) : ∃ fps byte, w = parserWord fps byte :=
  ⟨_, _, (parserWord_fields w).symm⟩

@[simp] theorem isChannelByte_channelByteOf (ch : BitVec 3) : isChannelByte (channelByteOf ch) = true := by
  revert ch; decide

@[simp] theorem channelField_channelByteOf (ch : BitVec 3) : channelField (channelByteOf ch) = ch := by
  revert ch; decide

theorem channelByteOf_channelField {byte : Byte} (h : isChannelByte byte = true) :
    channelByteOf (channelField byte) = byte := by
  revert byte; decide

theorem channelField_eq_sub {byte : Byte} (h : isChannelByte byte = true) :
    channelField byte = BitVec.ofNat 3 (byte.toNat - 0x30) := by
  revert byte; decide

/-- RX.DISCARD is well-formed for the bytes that are no channel byte (R67). -/
theorem wf_rxDiscard_iff (byte : Byte) : (Instr.rxDiscard byte).wf = true ↔ isChannelByte byte = false := by
  simp [Instr.wf, isChannelByte]

/-- RX under SERIAL is the operation that {FPS, byte} decodes to (R65). -/
theorem exec_rx_of_serial {s : State} (hs : s.cfg.variant = .serial) (byte : Byte) :
    exec (.rx byte) s = exec (decodePd (parserWord s.fps byte)) s := by
  change execRx byte s = _
  rw [decodePd_parserWord, execRx, if_neg (not_not_intro hs)]
  split_ifs <;> rfl

/-- Settles O16: the decoder reads {FPS, byte} field by field, and RX makes the same choice. -/
theorem rxRunsTheParserWordsOperation : Obligations.RxRunsTheParserWordsOperation := by
  refine ⟨fun fps byte => ?_, fun byte s hs => exec_rx_of_serial hs byte⟩
  rw [decodePd_parserWord]
  simp only [← isChannelByte_iff]
  cases hc : isChannelByte byte with
  | false => rfl
  | true => simp only [channelField_eq_sub hc]

/-! ### Transition words (R44) -/

/-- T = {prev B, prev A, new B, new A}. -/
theorem transitionIndex_bits (prev new : BitVec 2) :
    (transitionIndex prev new).getLsbD 3 = prev.getLsbD 1 ∧ (transitionIndex prev new).getLsbD 2 = prev.getLsbD 0 ∧
    (transitionIndex prev new).getLsbD 1 = new.getLsbD 1 ∧ (transitionIndex prev new).getLsbD 0 = new.getLsbD 0 := by
  revert prev new; decide

/-- The row of the 16-value table does what R44's rule in words selects. -/
theorem exec_decodeTi (t : BitVec 4) (ch : Channel) (s : State) :
    exec (decodeTi t ch) s = .next (edgeOp t ch s) := by
  unfold decodeTi edgeOp edgeKind
  cases t.getLsbD 3 <;> cases t.getLsbD 2 <;> cases t.getLsbD 1 <;> cases t.getLsbD 0 <;> rfl

/-- R44's rule on the two phases: only A changed, only B changed, or neither or both. -/
theorem edgeKind_transitionIndex (prev new : BitVec 2) :
    edgeKind (transitionIndex prev new) =
      if prev.getLsbD 0 ≠ new.getLsbD 0 ∧ prev.getLsbD 1 = new.getLsbD 1 then
        (if new.getLsbD 0 = new.getLsbD 1 then .dec else .inc)
      else if prev.getLsbD 0 = new.getLsbD 0 ∧ prev.getLsbD 1 ≠ new.getLsbD 1 then
        (if new.getLsbD 1 = new.getLsbD 0 then .inc else .dec)
      else if prev = new then .none else .skip := by
  revert prev new; decide

/-- Settles O4: the table's row is the edge that the rule in words selects, and each edge adds +1, -1 or nothing. -/
theorem transitionTableAgreesWithRule : Obligations.TransitionTableAgreesWithRule := by
  refine ⟨transitionIndex_bits, fun ch => rfl, fun prev new ch s => ?_⟩
  obtain ⟨hacc, hframe⟩ := edgeOp_spec (transitionIndex prev new) ch s
  refine ⟨_, exec_decodeTi _ ch s, hframe, ?_⟩
  rw [hacc, edgeKind_transitionIndex]
  split_ifs <;> rfl

/-! ### Decoding and encoding undo each other (R38 to R46, R73, R96) -/

/-- Settles O55: format by format. Of the PD rows RX.CHAN rests on the channel byte's form and RX.DISCARD on its
byte being none (R67); the last six rows have no encoding. -/
theorem decodeOfEncodeIsIdentity : Obligations.DecodeOfEncodeIsIdentity := by
  intro i c hwf henc
  cases i with
  | scan a b => cases henc; exact decodeEv_eventScan a b
  | rx byte => cases henc; exact decodeEv_eventRx byte
  | tick => cases henc; exact decodeEv_eventTick
  | reserved p1 p0 =>
    cases henc
    simp [decode, decodeEv_of_evKind_reserved]
  | rxChan ch => cases henc; simp [decode, decodePd_parserWord]
  | rxDiscard byte =>
    cases henc
    simp [decode, decodePd_parserWord, (wf_rxDiscard_iff byte).mp hwf]
  | rxHigh _ | rxLow _ | rxUnreachable _ => cases henc; simp [decode, decodePd_parserWord]
  | edgeNone0000 _ | edgeInc0001 _ | edgeDec0010 _ | edgeSkip0011 _
  | edgeDec0100 _ | edgeNone0101 _ | edgeSkip0110 _ | edgeInc0111 _
  | edgeInc1000 _ | edgeSkip1001 _ | edgeNone1010 _ | edgeDec1011 _
  | edgeSkip1100 _ | edgeDec1101 _ | edgeInc1110 _ | edgeNone1111 _ => cases henc; rfl
  | emitSingle _ _ | emitDual _ _ | reset => cases henc; rfl
  | satAdd _ _ | applyDelta _ _ | drainAll | drainOne _ | chunks _ | frameFlush _ => cases henc

theorem wf_and_encode_of_decodeEv {w : EventWord} {i : Instr} (h : decodeEv w = .ok i) :
    i.wf = true ∧ encode i = some (.ev w) := by
  obtain ⟨a, b, rfl, rfl⟩ | ⟨byte, rfl, rfl⟩ | ⟨rfl, rfl⟩ | ⟨p1, p0, rfl, rfl⟩ := decodeEv_cases h <;>
    exact ⟨rfl, rfl⟩

theorem wf_and_encode_decodePd (w : BitVec 10) :
    (decodePd w).wf = true ∧ encode (decodePd w) = some (.pd w) := by
  obtain ⟨fps, byte, rfl⟩ := exists_eq_parserWord w
  rw [decodePd_parserWord]
  obtain rfl | rfl | rfl | rfl := twoBit_cases fps
  · cases hc : isChannelByte byte with
    | false => exact ⟨(wf_rxDiscard_iff byte).mpr hc, rfl⟩
    | true => simp [Instr.wf, encode, channelByteOf_channelField hc]
  · exact ⟨rfl, rfl⟩
  · exact ⟨rfl, rfl⟩
  · exact ⟨rfl, rfl⟩

theorem wf_and_encode_decodeTi (t : BitVec 4) (ch : Channel) :
    (decodeTi t ch).wf = true ∧ encode (decodeTi t ch) = some (.ti t ch) := by
  revert t ch; decide

theorem wf_and_encode_decodeCfg (w : BitVec 1) (ch : Channel) {v : Int} (hv : drainedRange v = true) :
    (decodeCfg w ch v).wf = true ∧ encode (decodeCfg w ch v) = some (.cfg w ch v) := by
  obtain rfl | rfl : w = 0#1 ∨ w = 1#1 := by revert w; decide
  · exact ⟨hv, rfl⟩
  · exact ⟨hv, rfl⟩

theorem wf_and_encode_of_decodeSignal {w : BitVec 1} {i : Instr} (h : decodeSignal w = .ok i) :
    i.wf = true ∧ encode i = some (.signal w) := by
  unfold decodeSignal at h
  split at h
  next hw => cases h; rw [hw]; exact ⟨rfl, rfl⟩
  next => cases h

/-- Settles O56: format by format, each of whose decoders names the word it read. -/
theorem encodeOfDecodeIsIdentity : Obligations.EncodeOfDecodeIsIdentity := by
  intro c i hwf hdec
  cases c with
  | ev w => exact wf_and_encode_of_decodeEv hdec
  | pd w => cases hdec; exact wf_and_encode_decodePd w
  | ti w ch => cases hdec; exact wf_and_encode_decodeTi w ch
  | cfg w ch v => cases hdec; exact wf_and_encode_decodeCfg w ch hwf
  | signal w => exact wf_and_encode_of_decodeSignal hdec

/-- Settles O57: closed words, so the decoders are run. -/
theorem sampleWordsDecode : Obligations.SampleWordsDecode := by
  unfold Obligations.SampleWordsDecode
  decide

/-! ### The snapshot (R40) -/

/-- Bits 2*ch+1 and 2*ch of the snapshot lie in the ch-th of its eight two-bit pieces. -/
theorem snapshot_extractLsb' (a b : Byte) (ch : Channel) :
    (snapshot a b).extractLsb' (2 * ch.val) 2 = newPhase a b ch := by
  apply BitVec.eq_of_getLsbD_eq
  intro i hi
  simp only [snapshot, BitVec.getLsbD_extractLsb', BitVec.getLsbD_cast, BitVec.getLsbD_append, hi]
  obtain rfl | rfl : i = 0 ∨ i = 1 := by omega
  · fin_cases ch <;> simp
  · fin_cases ch <;> simp

/-- Settles O9: the bits of a phase, and the snapshot as the eight phases side by side. -/
theorem snapshotInterleavesPhaseBits : Obligations.SnapshotInterleavesPhaseBits := fun a b ch =>
  ⟨newPhase_bit_a a b ch, newPhase_bit_b a b ch, snapshot_extractLsb' a b ch⟩

/-! ### The serial frame (R46, R47) -/

theorem channelByte_toNat (ch : Channel) : (channelByte ch).toNat = 0x30 + ch.val := by
  revert ch; decide

theorem isChannelByte_channelByte (ch : Channel) : isChannelByte (channelByte ch) = true := by
  revert ch; decide

theorem channelOf_channelField_channelByte (ch : Channel) : channelOf (channelField (channelByte ch)) = ch := by
  revert ch; decide

/-- The parser's {FHI, byte} puts the two data bytes of a frame together again. -/
theorem frameValue_extractLsb' (value : Half) :
    frameValue (value.extractLsb' 8 8) (value.extractLsb' 0 8) = value := by
  unfold frameValue
  rw [BitVec.cast_eq, BitVec.extractLsb'_append_extractLsb'_eq_extractLsb' (by rfl)]
  exact BitVec.extractLsb'_eq_self

/-- Settles O24: the frame's three bytes, as the parser reads them. -/
theorem serialFrameIsBigEndian : Obligations.SerialFrameIsBigEndian := by
  intro ch value
  have hvalue := frameValue_extractLsb' value
  refine ⟨_, _, _, rfl, channelByte_toNat ch, isChannelByte_channelByte ch, channelOf_channelField_channelByte ch,
    hvalue, ?_⟩
  rw [← frameValue_toNat, hvalue]

/-! ### The bytes of a message (R48 to R51) -/

/-- sext_7 gives back any piece that 7 bits hold. -/
theorem valueSingle_sext {k : Int} (h : -64 ≤ k ∧ k ≤ 63) : ((valueSingle k).setWidth 7).toInt = k := by
  rw [valueSingle, BitVec.setWidth_setWidth_of_le _ (by omega), BitVec.setWidth_eq, BitVec.toInt_ofInt,
    Int.bmod_def]
  omega

/-- Settles O31: the SINGLE value is k mod 128, which is 0 or 64 for no piece of R50's range. -/
theorem valueAssembly : Obligations.ValueAssembly := by
  intro k hlow hhigh
  have hval := valueSingle_toNat k
  refine ⟨by split <;> omega, fun h => ?_, fun h => ?_, valueSingle_sext (by omega), valueDual_toNat hhigh⟩
  · rw [h, BitVec.toNat_ofNat] at hval; omega
  · rw [h, BitVec.toNat_ofNat] at hval; omega

theorem configOk_iff (c : Config) :
    configOk c = true ↔
      (c.ccMode = .single ∧ c.ccBase.toNat ≤ 120) ∨ (c.ccMode = .dual ∧ c.ccBase.toNat ≤ 112) := by
  rw [← Bool.not_eq_false, configOk_eq_false_iff]
  cases c.ccMode with
  | single => simp
  | dual => simp

/-- Settles O32: R7's thresholds leave room for the largest sum of each mode, so that no sum wraps. -/
theorem controllersStayWithinSevenBits : Obligations.ControllersStayWithinSevenBits := by
  intro c ch k
  refine ⟨configOk_iff c, fun hc hm => ?_, fun hc hm => ?_⟩
  · have hbase : c.ccBase.toNat ≤ 120 := by simpa [configOk_iff, hm] using hc
    rw [ctrlSingle_toNat hbase]
    exact ⟨rfl, by omega⟩
  · have hbase : c.ccBase.toNat ≤ 112 := by simpa [configOk_iff, hm] using hc
    rw [ctrlDual_toNat hbase]
    exact ⟨rfl, by split <;> omega⟩

/-- Settles O36: what `deliver` and `Delivery.bytes` say of the two items. -/
theorem deliveredMessageBytes : Obligations.DeliveredMessageBytes :=
  ⟨fun _ _ => rfl, rfl, rfl⟩

end Sys2Proof.Machine
end

section
/-! PROOFS. The statements of 40_sampler.md: what SCAN does with every channel's phase and edge (R54), the first SCAN
after reset (R55), and a sample presented twice (R54). -/

namespace Sys2Proof.Machine

/-! ### The phases SCAN loads (R40, R54, R55) -/

/-- Primed or not, SCAN loads the sample into every channel's phase. -/
theorem scanned_phase (a b : Byte) (s : State) (c : Channel) : (scanned a b s).phase[c] = newPhase a b c := by
  unfold scanned
  split_ifs
  · exact (scanEdges_spec a b s).1 c
  · exact (prime_spec a b s).1 c

theorem scanned_of_primed {s : State} (hvalid : s.phaseValid = true) (a b : Byte) :
    scanned a b s = scanEdges a b s := if_pos hvalid

theorem scanned_of_unprimed {s : State} (hvalid : s.phaseValid = false) (a b : Byte) :
    scanned a b s = prime a b s := by
  rw [scanned, hvalid]; rfl

theorem exec_scan_of_serial {s : State} (hs : s.cfg.variant = .serial) (a b : Byte) :
    exec (.scan a b) s = .refused (.because .wrongVariant) :=
  if_pos (by rw [hs]; decide)

theorem decodeEv_of_evKind_scan {w : EventWord} (h : evKind w = 0b00#2) :
    decodeEv w = .ok (.scan (evP0 w) (evP1 w)) :=
  if_pos h

/-- Settles O5: the decoder's first test, and the three cases of SCAN. A primed SCAN runs on each channel the edge
of its old and new phase, which is what the table's row does there. -/
theorem scanDetectsEveryChannelsEdge : Obligations.ScanDetectsEveryChannelsEdge := by
  refine ⟨fun w hw => decodeEv_of_evKind_scan hw, fun a b s =>
    ⟨fun hs => exec_scan_of_serial hs a b, fun hq hvalid => ?_, fun hq hvalid => ?_⟩⟩
  · rw [exec_scan_of_quad hq, scanned_of_unprimed hvalid]
  · obtain ⟨hphase, hacc, hframe⟩ := scanEdges_spec a b s
    refine ⟨scanEdges a b s, by rw [exec_scan_of_quad hq, scanned_of_primed hvalid], hframe, fun ch => ?_⟩
    rw [hphase ch]
    exact ⟨newPhase_bit_a a b ch, newPhase_bit_b a b ch, _, exec_decodeTi _ ch s, hacc ch⟩

/-- Settles O6: the first SCAN is `prime`, which writes PHASE and PHASE_VALID alone. -/
theorem firstScanPrimesWithoutCounting : Obligations.FirstScanPrimesWithoutCounting := by
  intro a b s hq hvalid
  obtain ⟨hphase, hframe⟩ := prime_spec a b s
  refine ⟨prime a b s, by rw [exec_scan_of_quad hq, scanned_of_unprimed hvalid], by rw [hframe],
    fun ch => ?_, hframe⟩
  rw [hphase ch]
  exact ⟨newPhase_bit_a a b ch, newPhase_bit_b a b ch⟩

/-! ### A sample presented twice (R54) -/

/-- A phase that did not change moves no accumulator. -/
theorem edgeOp_same_phase (p : BitVec 2) (ch : Channel) (s : State) : edgeOp (transitionIndex p p) ch s = s := by
  rw [edgeOp, edgeKind_same]

/-- Edge detection on a sample whose phases PHASE already holds changes nothing. -/
theorem scanEdges_of_phase_eq {a b : Byte} {s : State} (h : ∀ c : Channel, s.phase[c] = newPhase a b c) :
    scanEdges a b s = s := by
  obtain ⟨hphase, hacc, hframe⟩ := scanEdges_spec a b s
  have hsamePhase : (scanEdges a b s).phase = s.phase :=
    State.phase_eq_of_forall fun c => (hphase c).trans (h c).symm
  have hsameAcc : (scanEdges a b s).acc = s.acc :=
    State.acc_eq_of_accVal_eq fun c => by rw [hacc c, h c, edgeOp_same_phase]
  rw [hframe, hsamePhase, hsameAcc]

/-- Once the sample is loaded, SCAN of the same sample changes nothing. -/
theorem scanned_scanned (a b : Byte) (s : State) : scanned a b (scanned a b s) = scanned a b s := by
  have hprimed : (scanned a b s).phaseValid = true := by rw [scanned_frame]
  rw [scanned_of_primed hprimed, scanEdges_of_phase_eq (scanned_phase a b s)]

/-- A SCAN that completes was taken under QUAD. -/
theorem variant_of_exec_scan {a b : Byte} {s t : State} (h : exec (.scan a b) s = .next t) :
    s.cfg.variant = .quad := by
  cases hv : s.cfg.variant with
  | quad => rfl
  | serial => rw [exec_scan_of_serial hv] at h; cases h

/-- Settles O7: the first SCAN leaves PHASE holding the sample and PHASE_VALID set, primed before or not, so the
second finds no channel's phase changed. -/
theorem repeatedScanChangesNothing : Obligations.RepeatedScanChangesNothing := by
  intro a b s t h
  have hq := variant_of_exec_scan h
  rw [exec_scan_of_quad hq] at h
  cases h
  have hquad : (scanned a b s).cfg.variant = .quad := by rw [scanned_frame]; exact hq
  rw [exec_scan_of_quad hquad, scanned_scanned]

end Sys2Proof.Machine
end

section
/-! PROOFS. The statements of 41_accumulator.md: SATADD and what is it under another name (R56 to R58, R61), the
EDGE rows that change nothing (R59, R60), and the drains (R62, R63), with a second TICK after a drain (R78). -/

namespace Sys2Proof.Machine

/-! ### SATADD and APPLY_DELTA (R56, R61) -/

theorem exec_satAdd (ch : Channel) (d : Int) (s : State) : exec (.satAdd ch d) s = .next (satAdd ch d s) := rfl

/-- APPLY_DELTA is SATADD under another name (R61). -/
theorem exec_applyDelta (ch : Channel) (d : Int) (s : State) :
    exec (.applyDelta ch d) s = .next (satAdd ch d s) := rfl

theorem satAdd_accVal (ch : Channel) (d : Int) (s : State) :
    (satAdd ch d s).accVal ch = max (-127) (min 127 (s.accVal ch + d)) :=
  (satAdd_spec ch d s).1

/-- Adding 0 to an accumulator within its bounds writes back the value it holds. -/
theorem satAdd_zero {s : State} {ch : Channel} (h : -127 ≤ s.accVal ch ∧ s.accVal ch ≤ 127) :
    satAdd ch 0 s = s := by
  rw [satAdd, Int.add_zero, sat_of_bounded h, State.setAcc_accVal]

/-- Settles O10: SATADD's value and frame; and with d = 0 the clamp is the identity on a bounded accumulator. -/
theorem satAddClampsTheExactSum : Obligations.SatAddClampsTheExactSum := by
  intro ch d s
  refine ⟨satAdd ch d s, exec_satAdd ch d s, (satAdd_spec ch d s).2, satAdd_accVal ch d s, fun hd hbound => ?_⟩
  rw [hd, satAdd_zero (hbound ch)]

/-- Settles O11: the state SATADD leaves, its clamp read below, above and between the two bounds. -/
theorem applyDeltaSaturates : Obligations.ApplyDeltaSaturates := by
  intro ch d s
  refine ⟨satAdd ch d s, exec_applyDelta ch d s, (satAdd_spec ch d s).2, exec_satAdd ch d s, ?_⟩
  rw [satAdd_accVal]
  exact ⟨by omega, by omega, by omega⟩

/-! ### The EDGE rows (R57 to R60) -/

/-- The rows of the transition indices that R44 gives +1 (R57). -/
theorem exec_decodeTi_of_inc {t : BitVec 4} (h : edgeKind t = .inc) (ch : Channel) (s : State) :
    exec (decodeTi t ch) s = .next (satAdd ch 1 s) := by
  rw [exec_decodeTi, edgeOp, h]; rfl

/-- The rows of the transition indices that R44 gives -1 (R58). -/
theorem exec_decodeTi_of_dec {t : BitVec 4} (h : edgeKind t = .dec) (ch : Channel) (s : State) :
    exec (decodeTi t ch) s = .next (satAdd ch (-1) s) := by
  rw [exec_decodeTi, edgeOp, h]; rfl

/-- The rows of the transition indices in which no bit or both bits changed (R59, R60). -/
theorem exec_decodeTi_of_none_or_skip {t : BitVec 4} (h : edgeKind t = .none ∨ edgeKind t = .skip) (ch : Channel)
    (s : State) : exec (decodeTi t ch) s = .next s := by
  rw [exec_decodeTi, edgeOp]
  obtain h | h := h <;> rw [h]

/-- Settles O1: the four rows are those of R44's four +1 transitions, and each is SATADD of +1. -/
theorem edgeIncRowsAddOneSaturating : Obligations.EdgeIncRowsAddOneSaturating := by
  intro ch s
  have hkind : ∀ t ∈ [0x1#4, 0x7#4, 0x8#4, 0xE#4], edgeKind t = .inc := by decide
  refine ⟨rfl, rfl, rfl, rfl, List.forall_mem_map (f := (decodeTi · ch)) (l := [0x1#4, 0x7#4, 0x8#4, 0xE#4])
    |>.mpr fun t ht => ?_⟩
  exact ⟨satAdd ch 1 s, exec_decodeTi_of_inc (hkind t ht) ch s, satAdd_spec ch 1 s⟩

/-- Settles O2: the four rows are those of R44's four -1 transitions, and each is SATADD of -1. -/
theorem edgeDecRowsSubtractOneSaturating : Obligations.EdgeDecRowsSubtractOneSaturating := by
  intro ch s
  have hkind : ∀ t ∈ [0x2#4, 0x4#4, 0xB#4, 0xD#4], edgeKind t = .dec := by decide
  refine ⟨rfl, rfl, rfl, rfl, List.forall_mem_map (f := (decodeTi · ch)) (l := [0x2#4, 0x4#4, 0xB#4, 0xD#4])
    |>.mpr fun t ht => ?_⟩
  exact ⟨satAdd ch (-1) s, exec_decodeTi_of_dec (hkind t ht) ch s, satAdd_spec ch (-1) s⟩

/-- Settles O3: the eight rows are those of R44's transitions that change no bit or both. -/
theorem edgeNoneAndSkipRowsChangeNothing : Obligations.EdgeNoneAndSkipRowsChangeNothing := by
  intro ch s
  have hkind : ∀ t ∈ [0x0#4, 0x5#4, 0xA#4, 0xF#4, 0x3#4, 0x6#4, 0x9#4, 0xC#4],
      edgeKind t = .none ∨ edgeKind t = .skip := by decide
  refine ⟨rfl, rfl, rfl, rfl, rfl, rfl, rfl, rfl, List.forall_mem_map (f := (decodeTi · ch))
    (l := [0x0#4, 0x5#4, 0xA#4, 0xF#4, 0x3#4, 0x6#4, 0x9#4, 0xC#4]) |>.mpr fun t ht => ?_⟩
  exact exec_decodeTi_of_none_or_skip (hkind t ht) ch s

/-! ### The drains (R62, R63) -/

theorem exec_drainAll (s : State) :
    exec .drainAll s = .next { (drainAll s).2 with ret := .drained (drainAll s).1 } := rfl

theorem exec_drainOne (ch : Channel) (s : State) :
    exec (.drainOne ch) s = .next { (drainOne ch s).2 with ret := .value (drainOne ch s).1 } := rfl

/-- Settles O13: the drain's list, the cleared accumulators and the frame, with the list then put into `ret`. -/
theorem drainAllReturnsNonzeroAscendingAndClears : Obligations.DrainAllReturnsNonzeroAscendingAndClears := by
  intro s
  obtain ⟨hlist, hzero, hframe⟩ := drainAll_spec s
  exact ⟨_, exec_drainAll s, congrArg OpResult.drained hlist, hzero,
    congrArg (fun t : State => { t with ret := .drained (drainAll s).1 }) hframe⟩

/-- Settles O15: the value, the one accumulator cleared and the frame, with the value then put into `ret`. -/
theorem drainOneReturnsAndClears : Obligations.DrainOneReturnsAndClears := by
  intro ch s
  obtain ⟨hvalue, hzero, hothers, hframe⟩ := drainOne_spec ch s
  exact ⟨_, exec_drainOne ch s, congrArg OpResult.value hvalue, hzero, hothers,
    congrArg (fun t : State => { t with ret := .value (drainOne ch s).1 }) hframe⟩

/-! ### Draining when every accumulator is 0 (R62, R78) -/

theorem drainFrom_of_accVal_zero {s : State} (h : ∀ ch : Channel, s.accVal ch = 0) (l : List Channel) :
    drainFrom l s = ([], s) := by
  induction l with
  | nil => rfl
  | cons ch rest ih => rw [drainFrom, if_pos (h ch), ih]

theorem drainAll_of_accVal_zero {s : State} (h : ∀ ch : Channel, s.accVal ch = 0) : drainAll s = ([], s) :=
  drainFrom_of_accVal_zero h channels

theorem tick_of_accVal_zero {s : State} (h : ∀ ch : Channel, s.accVal ch = 0) : tick s = s := by
  rw [tick, drainAll_of_accVal_zero h]; rfl

/-- TICK completes exactly under QUAD with a well-formed configuration, and then has its one effect. -/
theorem exec_tick_eq_next_iff {s t : State} :
    exec .tick s = .next t ↔ s.cfg.variant = .quad ∧ configOk s.cfg = true ∧ t = tick s := by
  refine ⟨fun h => ?_, fun ⟨hq, hc, ht⟩ => by rw [exec_tick_of_configOk hq hc, ht]⟩
  change execTick s = _ at h
  obtain ⟨-, e⟩ | ⟨-, -, e⟩ | ⟨hq, hc, e⟩ := execTick_cases s <;> rw [e] at h <;> cases h
  exact ⟨hq, hc, rfl⟩

/-- Settles O14: both operations leave every accumulator 0, and then there is nothing to drain. -/
theorem secondDrainIsEmpty : Obligations.SecondDrainIsEmpty := by
  refine ⟨fun s t h => ?_, fun s t h => ?_⟩
  · obtain ⟨-, hzero, -⟩ := drainAll_spec s
    have hdrained : ∀ ch : Channel, t.accVal ch = 0 := by cases h; exact hzero
    rw [exec_drainAll, drainAll_of_accVal_zero hdrained]
  · obtain ⟨hq, hc, rfl⟩ := exec_tick_eq_next_iff.mp h
    obtain ⟨hzero, -, hframe⟩ := tick_spec s
    have hcfg : (tick s).cfg = s.cfg := by rw [hframe]
    exact exec_tick_eq_next_iff.mpr
      ⟨by rw [hcfg]; exact hq, by rw [hcfg]; exact hc, (tick_of_accVal_zero hzero).symm⟩

end Sys2Proof.Machine
end

section
/-! PROOFS. The statements of 42_frame_parser.md: what each byte does to the parser (R65 to R69), delta16 (R70), and
garbage between frames (R71). -/

namespace Sys2Proof.Machine

/-! ### The rows of the parser word (R66 to R69) -/

theorem isChannelByte_eq_false_iff (byte : Byte) :
    isChannelByte byte = false ↔ byte.toNat < 0x30 ∨ 0x37 < byte.toNat := by
  rw [← Bool.not_eq_true, isChannelByte_iff]; omega

theorem exec_rxChan (ch : BitVec 3) (s : State) :
    exec (.rxChan ch) s = .next { s with fch := ch, fps := 0b01#2 } := rfl

theorem exec_rxDiscard (byte : Byte) (s : State) : exec (.rxDiscard byte) s = .next s := rfl

theorem exec_rxHigh (hi : Byte) (s : State) :
    exec (.rxHigh hi) s = .next { s with fhi := hi, fps := 0b10#2 } := rfl

theorem exec_rxLow_of_configOk {s : State} (hc : configOk s.cfg = true) (lo : Byte) :
    exec (.rxLow lo) s = .next (completeFrame lo s) := by
  rw [exec_rxLow, hc]; rfl

/-- The words of AwaitingChannel with a channel byte. -/
theorem decodePd_awaitingChannel_of_channelByte {byte : Byte} (hb : isChannelByte byte = true) :
    decodePd (parserWord 0b00#2 byte) = .rxChan (channelField byte) := by
  rw [decodePd_parserWord, if_pos rfl, if_pos hb]

/-- The words of AwaitingChannel with any other byte. -/
theorem decodePd_awaitingChannel_of_garbage {byte : Byte} (hb : isChannelByte byte = false) :
    decodePd (parserWord 0b00#2 byte) = .rxDiscard byte := by
  rw [decodePd_parserWord, if_pos rfl, hb]; rfl

theorem decodePd_awaitingHighByte (byte : Byte) : decodePd (parserWord 0b01#2 byte) = .rxHigh byte :=
  decodePd_parserWord 0b01#2 byte

theorem decodePd_awaitingLowByte (byte : Byte) : decodePd (parserWord 0b10#2 byte) = .rxLow byte :=
  decodePd_parserWord 0b10#2 byte

/-- Settles O18: a channel byte is one in 0x30 to 0x37, and its channel field is byte - 0x30 (R46). -/
theorem channelByteIsRecorded : Obligations.ChannelByteIsRecorded := by
  refine ⟨exec_rxChan, fun byte hlow hhigh => ?_⟩
  have hb : isChannelByte byte = true := (isChannelByte_iff byte).mpr ⟨hlow, hhigh⟩
  rw [decodePd_awaitingChannel_of_channelByte hb, channelField_eq_sub hb]

/-- Settles O19: a byte outside 0x30 to 0x37 is no channel byte. -/
theorem otherByteIsDiscarded : Obligations.OtherByteIsDiscarded :=
  ⟨exec_rxDiscard, fun byte hb => decodePd_awaitingChannel_of_garbage ((isChannelByte_eq_false_iff byte).mpr hb)⟩

/-- Settles O20: in AwaitingHighByte the decoder does not look at the byte. -/
theorem highByteIsStored : Obligations.HighByteIsStored :=
  ⟨exec_rxHigh, decodePd_awaitingHighByte⟩

/-! ### RX, by the state of the parser (R65) -/

theorem exec_rx_of_quad {s : State} (hq : s.cfg.variant = .quad) (byte : Byte) :
    exec (.rx byte) s = .refused (.because .wrongVariant) :=
  if_pos (by rw [hq]; decide)

section
variable {s : State} {byte : Byte} (hs : s.cfg.variant = .serial)
include hs

theorem exec_rx_of_channelByte (hfps : s.fps = 0b00#2) (hb : isChannelByte byte = true) :
    exec (.rx byte) s = .next { s with fch := channelField byte, fps := 0b01#2 } := by
  rw [exec_rx_of_serial hs, hfps, decodePd_awaitingChannel_of_channelByte hb, exec_rxChan]

theorem exec_rx_of_garbage (hfps : s.fps = 0b00#2) (hb : isChannelByte byte = false) :
    exec (.rx byte) s = .next s := by
  rw [exec_rx_of_serial hs, hfps, decodePd_awaitingChannel_of_garbage hb, exec_rxDiscard]

theorem exec_rx_of_highByte (hfps : s.fps = 0b01#2) :
    exec (.rx byte) s = .next { s with fhi := byte, fps := 0b10#2 } := by
  rw [exec_rx_of_serial hs, hfps, decodePd_awaitingHighByte, exec_rxHigh]

theorem exec_rx_of_lowByte (hfps : s.fps = 0b10#2) (hc : configOk s.cfg = true) :
    exec (.rx byte) s = .next (completeFrame byte s) := by
  rw [exec_rx_of_serial hs, hfps, decodePd_awaitingLowByte, exec_rxLow_of_configOk hc]

end

@[simp] theorem completeFrame_fps (lo : Byte) (s : State) : (completeFrame lo s).fps = 0b00#2 := by
  rw [completeFrame_spec]

/-- Settles O17: one case for each state of the parser, and two for AwaitingChannel. -/
theorem rxAdvancesTheParserByOneByte : Obligations.RxAdvancesTheParserByOneByte := by
  intro byte s
  refine ⟨fun hq => exec_rx_of_quad hq byte, fun hs hreach hc => ?_⟩
  simp only [← isChannelByte_iff]
  obtain hfps | hfps | hfps | hfps := twoBit_cases s.fps
  · cases hb : isChannelByte byte with
    | true => exact ⟨_, exec_rx_of_channelByte hs hfps hb, by rw [hfps]; rfl⟩
    | false => exact ⟨_, exec_rx_of_garbage hs hfps hb, by rw [hfps]; rfl⟩
  · exact ⟨_, exec_rx_of_highByte hs hfps, by rw [hfps]; rfl⟩
  · exact ⟨_, exec_rx_of_lowByte hs hfps hc, by rw [hfps, completeFrame_fps]; rfl⟩
  · exact absurd hfps hreach

/-! ### The completed frame (R69) -/

theorem eq_channelOf_iff {c : Channel} {field : BitVec 3} : c = channelOf field ↔ c.val = field.toNat :=
  Fin.ext_iff

/-- A frame writes PREV on its own channel. -/
theorem completeFrame_prev_getElem (lo : Byte) (s : State) (c : Channel) :
    (completeFrame lo s).prev[c] = if c = channelOf s.fch then frameValue s.fhi lo else s.prev[c] := by
  rw [completeFrame_spec]
  simp [Vector.getElem_set, Fin.ext_iff, eq_comm]

/-- A frame drains its own channel. -/
theorem completeFrame_accVal (lo : Byte) (s : State) (c : Channel) :
    (completeFrame lo s).accVal c = if c = channelOf s.fch then 0 else s.accVal c :=
  State.accVal_of_acc_set_zero s _ _ (by rw [completeFrame_spec]) c

/-- Settles O21: RX.LOW is the completion of the frame, read item by item. -/
theorem lowByteCompletesTheFrame : Obligations.LowByteCompletesTheFrame := by
  refine ⟨decodePd_awaitingLowByte, fun lo s hc => ?_⟩
  refine ⟨completeFrame lo s, exec_rxLow_of_configOk hc lo, fun c => ?_, completeFrame_fps lo s, fun c => ?_,
    fun ch hch => ?_, ?_⟩
  · rw [completeFrame_prev_getElem, apply_ite BitVec.toNat, frameValue_toNat]
    simp only [eq_channelOf_iff]
  · rw [completeFrame_accVal]
    simp only [eq_channelOf_iff]
  · rw [eq_channelOf_iff.mpr hch, completeFrame_spec]; rfl
  · rw [completeFrame_spec]

/-! ### delta16 (R70) -/

/-- The 16-bit difference read as a signed number: the exact difference, balanced modulo 2^16. -/
theorem delta16_eq_bmod (new prev : Half) : delta16 new prev = ((new.toNat : Int) - prev.toNat).bmod 65536 := by
  rw [delta16, BitVec.toInt_sub, BitVec.toInt_eq_toNat_bmod, BitVec.toInt_eq_toNat_bmod, Int.sub_bmod_bmod,
    Int.bmod_sub_bmod]

/-- Settles O23: a balanced remainder lies in the signed range, and is the number itself for one in that range. -/
theorem deltaSixteenIsTheModularDifference : Obligations.DeltaSixteenIsTheModularDifference := by
  intro new prev
  rw [delta16_eq_bmod, Int.bmod_def]
  refine ⟨by omega, by omega, by omega, fun _ => by omega⟩

/-! ### Bytes presented one after the other (R28, R71) -/

/-- The state with other frame registers. -/
def State.withParser (s : State) (fps : BitVec 2) (fch : BitVec 3) (fhi : Byte) : State :=
  { s with fps := fps, fch := fch, fhi := fhi }

theorem State.Idle.withParser {s : State} (h : s.Idle) (fps : BitVec 2) (fch : BitVec 3) (fhi : Byte) :
    (s.withParser fps fch fhi).Idle :=
  ⟨h.line, h.turns, h.schedule, h.pend, h.refusal, h.port, h.config⟩

theorem hostBytes_append (l m : List Byte) : hostBytes (l ++ m) = hostBytes l ++ hostBytes m :=
  List.map_append

/-- Two steps present a received byte and run its RX. -/
theorem State.Idle.steps_two_of_rx {s t : State} (h : s.Idle) {byte : Byte} {rest : List HostAct}
    (hqueue : s.hostQueue = .event (eventRx byte) :: rest)
    (hrx : exec (.rx byte) (s.withQueue rest) = .next t) : steps 2 s = .next t := by
  rw [h.steps_two hqueue, takeEvent_of_decodeEv (decodeEv_eventRx byte), hrx]; rfl

section
variable {s : State} (h : s.Idle) (hs : s.cfg.variant = .serial) (hfps : s.fps = 0b00#2)
include h hs hfps

/-- Garbage is taken byte by byte and leaves nothing behind. -/
theorem steps_garbage (rest : List HostAct) (garbage : List Byte)
    (hg : ∀ byte ∈ garbage, isChannelByte byte = false) :
    steps (2 * garbage.length) (s.withQueue (hostBytes garbage ++ rest)) = .next (s.withQueue rest) := by
  induction garbage with
  | nil => rfl
  | cons byte garbage ih =>
    obtain ⟨hb, hg⟩ := List.forall_mem_cons.mp hg
    have hbyte : steps 2 (s.withQueue (hostBytes (byte :: garbage) ++ rest)) =
        .next (s.withQueue (hostBytes garbage ++ rest)) :=
      (h.withQueue _).steps_two_of_rx rfl (exec_rx_of_garbage hs hfps hb)
    rw [List.length_cons, Nat.mul_succ, Nat.add_comm, steps_add hbyte, ih hg]

/-- A channel byte and any two bytes after it are taken in six steps, the last of which completes the frame. -/
theorem steps_frameBytes {chan : Byte} (hb : isChannelByte chan = true) (hi lo : Byte) (rest : List HostAct) :
    steps 6 (s.withQueue (hostBytes [chan, hi, lo] ++ rest)) =
      .next (completeFrame lo ((s.withQueue rest).withParser 0b10#2 (channelField chan) hi)) := by
  have hchan : steps 2 (s.withQueue (hostBytes [chan, hi, lo] ++ rest)) =
      .next ((s.withQueue (hostBytes [hi, lo] ++ rest)).withParser 0b01#2 (channelField chan) s.fhi) :=
    (h.withQueue _).steps_two_of_rx rfl (exec_rx_of_channelByte hs hfps hb)
  have hhigh : steps 2 ((s.withQueue (hostBytes [hi, lo] ++ rest)).withParser 0b01#2 (channelField chan) s.fhi) =
      .next ((s.withQueue (hostBytes [lo] ++ rest)).withParser 0b10#2 (channelField chan) hi) :=
    ((h.withQueue _).withParser _ _ _).steps_two_of_rx rfl (exec_rx_of_highByte hs rfl)
  have hlow : steps 2 ((s.withQueue (hostBytes [lo] ++ rest)).withParser 0b10#2 (channelField chan) hi) =
      .next (completeFrame lo ((s.withQueue rest).withParser 0b10#2 (channelField chan) hi)) :=
    ((h.withQueue _).withParser _ _ _).steps_two_of_rx rfl (exec_rx_of_lowByte hs rfl h.config)
  exact (steps_add hchan 4).trans ((steps_add hhigh 2).trans hlow)

end

/-- A frame on the wire is completed with its own channel and value. -/
theorem completeFrame_serialFrame (s : State) (ch : Channel) (value : Half) :
    completeFrame (value.extractLsb' 0 8)
        (s.withParser 0b10#2 (channelField (channelByte ch)) (value.extractLsb' 8 8)) =
      { s with
        acc := s.acc.set ch 0#16
        prev := s.prev.set ch value
        fps := 0b00#2
        fch := channelField (channelByte ch)
        fhi := value.extractLsb' 8 8
        pend := s.pend ++ reportOf s.cfg ch (sat (s.accVal ch + delta16 value s.prev[ch])) } := by
  rw [completeFrame_spec]
  simp only [State.withParser, channelOf_channelField_channelByte, frameValue_extractLsb']
  rfl

/-- Settles O25: the garbage leaves only a shorter queue, and six more steps complete the frame from the very state
they would complete it from without the garbage. -/
theorem garbageResynchronises : Obligations.GarbageResynchronises := by
  intro garbage ch value rest s hs hc hfps hpend hrefusal hport hline hturns hschedule hg hqueue
  have hidle : s.Idle := ⟨hline, hturns, hschedule, hpend, hrefusal, hport, hc⟩
  have hgarbage : steps (2 * garbage.length) s = .next (s.withQueue (hostBytes (serialFrame ch value) ++ rest)) := by
    have hrun := steps_garbage hidle hs hfps (hostBytes (serialFrame ch value) ++ rest) garbage fun byte hb =>
      (isChannelByte_eq_false_iff byte).mpr (hg byte hb)
    rw [← List.append_assoc, ← hostBytes_append, ← hqueue] at hrun
    exact hrun
  have hframe : steps 6 (s.withQueue (hostBytes (serialFrame ch value) ++ rest)) = _ :=
    steps_frameBytes hidle hs hfps (isChannelByte_channelByte ch) _ _ rest
  rw [completeFrame_serialFrame] at hframe
  refine ⟨hgarbage, _, (steps_add hgarbage 6).trans hframe, hframe, rfl, rfl, ?_, ?_, rfl⟩
  · rw [State.accVal_of_acc_set_zero s _ ch rfl, if_pos rfl]
  · exact congrArg (· ++ _) hpend

end Sys2Proof.Machine
end

section
/-! PROOFS. The statements of 43_cc_emitter.md: CHUNKS (R72), EMIT.SINGLE and EMIT.DUAL (R74, R75), and the chunking
law (R77). -/

namespace Sys2Proof.Machine

/-! ### The list of pieces, round by round (R72) -/

/-- A round of the loop on a non-zero value. -/
theorem chunksFrom_succ_of_ne_zero {r : Int} (h : r ≠ 0) (fuel : Nat) :
    chunksFrom (fuel + 1) r =
      r.sign * min (r.natAbs : Int) CLAMP :: chunksFrom fuel (r - r.sign * min (r.natAbs : Int) CLAMP) :=
  if_neg h

theorem chunksFrom_zero_right (fuel : Nat) : chunksFrom fuel 0 = [] := by cases fuel <;> rfl

/-- Fuel for abs(r) rounds is enough: more of it changes nothing. -/
theorem chunksFrom_eq_of_natAbs_le {m n : Nat} {r : Int} (hm : r.natAbs ≤ m) (hn : r.natAbs ≤ n) :
    chunksFrom m r = chunksFrom n r := by
  induction m generalizing n r with
  | zero =>
    obtain rfl : r = 0 := by omega
    rw [chunksFrom_zero_right, chunksFrom_zero_right]
  | succ m ih =>
    by_cases h : r = 0
    · rw [h, chunksFrom_zero_right, chunksFrom_zero_right]
    · obtain ⟨-, -, -, hrest⟩ := chunk_step h
      obtain ⟨n, rfl⟩ : ∃ k, n = k + 1 := ⟨n - 1, by omega⟩
      rw [chunksFrom_succ_of_ne_zero h, chunksFrom_succ_of_ne_zero h, ih (n := n) (by omega) (by omega)]

theorem chunks_of_ne_zero {r : Int} (h : r ≠ 0) :
    chunks r = r.sign * min (r.natAbs : Int) CLAMP :: chunks (r - r.sign * min (r.natAbs : Int) CLAMP) := by
  obtain ⟨-, -, -, hrest⟩ := chunk_step h
  rw [chunks, chunks, chunksFrom_eq_of_natAbs_le le_rfl (Nat.le_succ _), chunksFrom_succ_of_ne_zero h,
    chunksFrom_eq_of_natAbs_le (by omega) le_rfl]

/-- A value within CLAMP is its own only piece. -/
theorem chunks_of_natAbs_le {r : Int} (h0 : r ≠ 0) (h : r.natAbs ≤ 63) : chunks r = [r] := by
  have hpiece : r.sign * min (r.natAbs : Int) CLAMP = r := by
    rw [min_eq_left (by simp only [CLAMP]; omega), Int.sign_mul_natAbs]
  rw [chunks_of_ne_zero h0, hpiece, sub_self, chunks_zero]

/-- What a full piece leaves of a value. -/
def restOf (r : Int) : Int := r - r.sign * 63

/-- A value beyond CLAMP gives a full piece first, then the pieces of the rest. -/
theorem chunks_of_lt_natAbs {r : Int} (h : 63 < r.natAbs) : chunks r = r.sign * 63 :: chunks (restOf r) := by
  have hmin : min (r.natAbs : Int) CLAMP = 63 := min_eq_right (by simp only [CLAMP]; omega)
  rw [chunks_of_ne_zero (by omega), hmin, restOf]

theorem restOf_natAbs {r : Int} (h : 63 < r.natAbs) : (restOf r).natAbs = r.natAbs - 63 := by
  have hmin : min (r.natAbs : Int) CLAMP = 63 := min_eq_right (by simp only [CLAMP]; omega)
  rw [restOf, ← natAbs_chunk_rest, hmin]

theorem restOf_sign {r : Int} (h : 63 < r.natAbs) : (restOf r).sign = r.sign := by
  obtain hneg | hpos := lt_or_gt_of_ne (show r ≠ 0 by omega)
  · rw [restOf, Int.sign_eq_neg_one_of_neg hneg, Int.sign_eq_neg_one_of_neg (by omega)]
  · rw [restOf, Int.sign_eq_one_of_pos hpos, Int.sign_eq_one_of_pos (by omega)]

/-- Induction along R72's loop: no value left, one piece left, or a full piece and the rest. -/
theorem chunksInduction {P : Int → Prop} (zero : P 0)
    (last : ∀ r : Int, r ≠ 0 → r.natAbs ≤ 63 → P r)
    (full : ∀ r : Int, 63 < r.natAbs → P (restOf r) → P r) (v : Int) : P v := by
  induction hn : v.natAbs using Nat.strong_induction_on generalizing v with
  | h n ih =>
    by_cases hbig : 63 < v.natAbs
    · have hrest := restOf_natAbs hbig
      exact full v hbig (ih _ (by omega) _ rfl)
    · by_cases h0 : v = 0
      · exact h0 ▸ zero
      · exact last v h0 (by omega)

/-! ### What the pieces of a value are (R72) -/

theorem sum_chunks (v : Int) : (chunks v).sum = v := by
  induction v using chunksInduction with
  | zero => rfl
  | last r h0 hle => simp [chunks_of_natAbs_le h0 hle]
  | full r hbig ih => rw [chunks_of_lt_natAbs hbig, List.sum_cons, ih, restOf]; omega

theorem length_chunks (v : Int) : (chunks v).length = (v.natAbs + 62) / 63 := by
  induction v using chunksInduction with
  | zero => rfl
  | last r h0 hle => rw [chunks_of_natAbs_le h0 hle, List.length_singleton]; omega
  | full r hbig ih => rw [chunks_of_lt_natAbs hbig, List.length_cons, ih, restOf_natAbs hbig]; omega

theorem sign_of_mem_chunks {v : Int} : ∀ k ∈ chunks v, k.sign = v.sign := by
  induction v using chunksInduction with
  | zero => simp [chunks_zero]
  | last r h0 hle => simp [chunks_of_natAbs_le h0 hle]
  | full r hbig ih =>
    rw [chunks_of_lt_natAbs hbig, List.forall_mem_cons]
    refine ⟨?_, fun k hk => (ih k hk).trans (restOf_sign hbig)⟩
    rw [Int.sign_mul, Int.sign_sign]; exact mul_one _

/-- Every piece but the last is full: after a full piece there is always a rest. -/
theorem natAbs_of_mem_dropLast_chunks {v : Int} : ∀ k ∈ (chunks v).dropLast, k.natAbs = 63 := by
  induction v using chunksInduction with
  | zero => simp [chunks_zero]
  | last r h0 hle => simp [chunks_of_natAbs_le h0 hle]
  | full r hbig ih =>
    have hrest := restOf_natAbs hbig
    have hne : chunks (restOf r) ≠ [] := chunks_ne_nil (by omega)
    rw [chunks_of_lt_natAbs hbig, List.dropLast_cons_of_ne_nil hne, List.forall_mem_cons]
    refine ⟨?_, ih⟩
    rw [Int.natAbs_mul, Int.natAbs_sign_of_ne_zero (by omega)]; rfl

theorem neg_iff_of_mem_chunks {v k : Int} (hk : k ∈ chunks v) : k < 0 ↔ v < 0 := by
  rw [← Int.sign_eq_neg_one_iff_neg, sign_of_mem_chunks k hk, Int.sign_eq_neg_one_iff_neg]

theorem exec_chunks (v : Int) (s : State) : exec (.chunks v) s = .next { s with ret := .pieces (chunks v) } := rfl

/-- Settles O26: the list is `chunks v`, whose sum, length, signs and full pieces are proved along R72's loop. -/
theorem chunksSplitExactly : Obligations.ChunksSplitExactly := by
  intro v s hlow hhigh
  exact ⟨chunks v, exec_chunks v s, sum_chunks v, length_chunks v, length_chunks_le_three ⟨hlow, hhigh⟩,
    fun k hk => ⟨sign_of_mem_chunks k hk, natAbs_of_mem_chunksFrom hk⟩, natAbs_of_mem_dropLast_chunks⟩

/-! ### EMIT in each CC mode (R73 to R75) -/

theorem withBase_of_eq_true {ok : Bool} (h : ok = true) (t : State) : withBase ok t = .next t := by
  rw [h]; rfl

theorem exec_emitSingle_of_base {s : State} (h : s.cfg.ccBase.toNat ≤ 120) (ch : Channel) (v : Int) :
    exec (.emitSingle ch v) s = .next (emitSingle ch v s) := by
  rw [exec_emitSingle, withBase_of_eq_true (by simp only [baseOk, decide_eq_true_eq]; omega)]

theorem exec_emitDual_of_base {s : State} (h : s.cfg.ccBase.toNat ≤ 112) (ch : Channel) (v : Int) :
    exec (.emitDual ch v) s = .next (emitDual ch v s) := by
  rw [exec_emitDual, withBase_of_eq_true (by simp only [baseOk, decide_eq_true_eq]; omega)]

/-- trunc_7 as a byte: the piece modulo 128 (R50). -/
theorem valueSingle_eq_ofNat (k : Int) : valueSingle k = BitVec.ofNat 8 (k % 128).toNat := by
  apply BitVec.eq_of_toNat_eq
  rw [valueSingle_toNat, BitVec.toNat_ofNat]; omega

/-- The controller of a piece is chosen by the sign of the whole value (R49, R75). -/
theorem ctrlDual_of_mem_chunks {v k : Int} (hk : k ∈ chunks v) (base : BitVec 7) (ch : Channel) :
    ctrlDual base ch k = BitVec.ofNat 8 (base.toNat + 2 * ch.val + if v < 0 then 1 else 0) := by
  simp only [ctrlDual, neg_iff_of_mem_chunks hk]

/-- Settles O27: the base is in R7's range, and trunc_7 of a piece is the piece modulo 128. -/
theorem emitSingleCarriesTheSignInTheValue : Obligations.EmitSingleCarriesTheSignInTheValue := by
  intro ch v s _ _ hbase
  refine ⟨rfl, ?_⟩
  simp only [exec_emitSingle_of_base hbase, emitSingle, State.out, valueSingle_eq_ofNat, ctrlSingle]

/-- Settles O28: the base is in R7's range, and every piece has the value's sign. -/
theorem emitDualSelectsTheControllerBySign : Obligations.EmitDualSelectsTheControllerBySign := by
  intro ch v s _ _ hbase
  refine ⟨rfl, ?_⟩
  rw [exec_emitDual_of_base hbase, emitDual, State.out,
    List.map_congr_left fun k hk => by rw [ctrlDual_of_mem_chunks hk, valueDual]]

/-! ### The chunking law (R77) -/

/-- The word CC_MODE stands for runs EMIT in that mode (R73). -/
theorem exec_decodeCfg_of_configOk {s : State} (hc : configOk s.cfg = true) (ch : Channel) (v : Int) :
    exec (decodeCfg (if s.cfg.ccMode = .single then 0#1 else 1#1) ch v) s = .next (emit ch v s) := by
  obtain ⟨hm, hbase⟩ | ⟨hm, hbase⟩ := (configOk_iff s.cfg).mp hc
  · rw [if_pos hm, emit, hm]; exact exec_emitSingle_of_base hbase ch v
  · rw [if_neg (by simp [hm]), emit, hm]; exact exec_emitDual_of_base hbase ch v

/-- A receiver decodes from the message of a piece the piece itself (R77). -/
theorem pieceOf_itemOf {c : Config} (hc : configOk c = true) (ch : Channel) {k : Int} (hk : k.natAbs ≤ 63) :
    pieceOf c ch (itemOf c ch k) = k := by
  obtain ⟨hm, -⟩ | ⟨hm, hbase⟩ := (configOk_iff c).mp hc
  · simp only [itemOf, pieceOf, hm]
    exact valueSingle_sext (by omega)
  · simp only [itemOf, pieceOf, hm, ctrlDual_toNat hbase, valueDual_toNat hk]
    by_cases hneg : k < 0
    · rw [if_pos hneg, if_pos rfl]; omega
    · rw [if_neg hneg, if_neg (by omega)]; omega

theorem map_pieceOf_messages {c : Config} (hc : configOk c = true) (ch : Channel) (v : Int) :
    ((chunks v).map (itemOf c ch)).map (pieceOf c ch) = chunks v := by
  rw [List.map_map]
  exact (List.map_congr_left fun k hk => pieceOf_itemOf hc ch (natAbs_of_mem_chunksFrom hk).2).trans (List.map_id _)

/-- Settles O30: the items are the messages of the value's pieces, each of which decodes to its piece. -/
theorem emittedPiecesSumToTheValue : Obligations.EmittedPiecesSumToTheValue := by
  intro ch v s _ _ hc
  refine ⟨(chunks v).map (itemOf s.cfg ch), ?_, ?_, ?_, messages_legal hc ch v⟩
  · rw [exec_decodeCfg_of_configOk hc, emit_eq_out, State.out]
  · rw [List.length_map, length_chunks]
  · rw [map_pieceOf_messages hc, sum_chunks]

end Sys2Proof.Machine
end

section
/-! PROOFS. The statements of 44_flush_trigger.md: what FRAME_FLUSH (R79) and TICK (R78) append and clear, and the one
FLUSH that closes the items of an event (R80). -/

namespace Sys2Proof.Machine

/-! ### FRAME_FLUSH (R79) -/

theorem exec_frameFlush_of_configOk {s : State} (hc : configOk s.cfg = true) (ch : Channel) :
    exec (.frameFlush ch) s = .next (frameFlush ch s) := by
  rw [exec_frameFlush, withBase_of_eq_true hc]

/-- Settles O33: FRAME_FLUSH clears the one accumulator and then appends the channel's report. -/
theorem frameFlushReportsOneChannel : Obligations.FrameFlushReportsOneChannel := by
  intro ch s hc
  refine ⟨_, exec_frameFlush_of_configOk hc ch, ?_⟩
  rw [frameFlush_spec]
  exact ⟨rfl, s.accVal_setAcc_self ch (by omega), fun c hne => s.accVal_setAcc_ne 0 hne, rfl⟩

/-! ### TICK (R78) -/

theorem exec_tick_of_serial {s : State} (hs : s.cfg.variant = .serial) :
    exec .tick s = .refused (.because .wrongVariant) :=
  if_pos (by rw [hs]; decide)

/-- A word of TICK's kind with a payload bit set is ill-padded (R42). -/
theorem decodeEv_of_tick_payload {w : EventWord} (hkind : evKind w = 0b10#2) (hpayload : w.extractLsb' 0 16 ≠ 0#16) :
    decodeEv w = .error .tickPadding := by
  have hpad : ¬(evP1 w = 0#8 ∧ evP0 w = 0#8) := by
    rintro ⟨hp1, hp0⟩
    have hw : eventTick = w := by rw [← evWord_fields w, hkind, hp1, hp0]; rfl
    exact hpayload (hw ▸ by decide)
  simp [decodeEv, hkind, hpad]

theorem rejectReason_tickPadding_of_quad {c : Config} (hq : c.variant = .quad) :
    rejectReason c .tickPadding = .badPadding :=
  if_pos hq

/-- Settles O34: the word 0x20000 is the TICK event; the variant and the payload are checked first, and what remains
is the one effect of TICK. -/
theorem tickDrainsEveryChannel : Obligations.TickDrainsEveryChannel :=
  ⟨decodeEv_eventTick, fun _ hs => exec_tick_of_serial hs,
    fun _ _ hkind hpayload hq =>
      ⟨.tickPadding, decodeEv_of_tick_payload hkind hpayload, rejectReason_tickPadding_of_quad hq⟩,
    fun s hq hc => ⟨tick s, exec_tick_of_configOk hq hc, tick_spec s⟩⟩

/-! ### One FLUSH after the last message (R80) -/

/-- The items hold no message and no FLUSH, or messages and then one FLUSH. -/
def ClosedByOneFlush (items : List OutItem) : Prop :=
  items = [] ∨ ∃ ccs, ccs ≠ [] ∧ items = ccs ++ [.flush] ∧ OutItem.flush ∉ ccs

theorem closedByOneFlush_nil : ClosedByOneFlush [] := .inl rfl

/-- Messages closed by a FLUSH unless there is none. -/
theorem closedByOneFlush_append_ite {msgs : List OutItem} {noMessage : Prop} [Decidable noMessage]
    (hiff : msgs = [] ↔ noMessage) (hflush : OutItem.flush ∉ msgs) :
    ClosedByOneFlush (msgs ++ if noMessage then [] else [.flush]) := by
  by_cases h : noMessage
  · rw [if_pos h, hiff.mpr h]; exact closedByOneFlush_nil
  · rw [if_neg h]; exact .inr ⟨msgs, mt hiff.mp h, rfl, hflush⟩

theorem flush_notMem_messages (c : Config) (ch : Channel) (v : Int) :
    OutItem.flush ∉ (chunks v).map (itemOf c ch) := fun hmem => by
  obtain ⟨k, -, hk⟩ := List.mem_map.mp hmem
  exact itemOf_ne_flush c ch k hk

theorem messages_eq_nil_iff (c : Config) (ch : Channel) (v : Int) : (chunks v).map (itemOf c ch) = [] ↔ v = 0 := by
  rw [List.map_eq_nil_iff]
  exact ⟨not_imp_not.mp chunks_ne_nil, fun h => by rw [h, chunks_zero]⟩

/-- The report of a channel is the messages of its value's pieces, closed by a FLUSH unless the value is 0. -/
theorem reportOf_eq_append_ite (c : Config) (ch : Channel) (v : Int) :
    reportOf c ch v = (chunks v).map (itemOf c ch) ++ if v = 0 then [] else [.flush] := by
  by_cases h : v = 0
  · rw [reportOf, if_pos h, if_pos h, (messages_eq_nil_iff c ch v).mpr h]; rfl
  · rw [reportOf, if_neg h, if_neg h]

theorem closedByOneFlush_reportOf (c : Config) (ch : Channel) (v : Int) : ClosedByOneFlush (reportOf c ch v) := by
  rw [reportOf_eq_append_ite]
  exact closedByOneFlush_append_ite (messages_eq_nil_iff c ch v) (flush_notMem_messages c ch v)

/-- The report of a saturated value is at most three messages and the FLUSH. -/
theorem length_reportOf_le_four (c : Config) (ch : Channel) {v : Int} (hv : -127 ≤ v ∧ v ≤ 127) :
    (reportOf c ch v).length ≤ 4 := by
  have hchunks := length_chunks_le_three hv
  rw [reportOf]
  split
  · exact Nat.zero_le 4
  · rw [List.length_append, List.length_map, List.length_singleton]; omega

/-- The messages of a TICK: those of every channel's value, in ascending order of the channels (R78). -/
def tickMessages (s : State) : List OutItem :=
  (channels.filter fun ch => decide (s.accVal ch ≠ 0)).flatMap fun ch =>
    (chunks (s.accVal ch)).map (itemOf s.cfg ch)

/-- What a TICK appends to PEND (R78, R80). -/
def tickReport (s : State) : List OutItem :=
  tickMessages s ++ if ∀ ch : Channel, s.accVal ch = 0 then [] else [.flush]

theorem tick_pend (s : State) : (tick s).pend = s.pend ++ tickReport s := by
  obtain ⟨-, hpend, -⟩ := tick_spec s
  rw [hpend, List.append_assoc, tickReport, tickMessages]

theorem flush_notMem_tickMessages (s : State) : OutItem.flush ∉ tickMessages s := fun hmem => by
  obtain ⟨ch, -, hch⟩ := List.mem_flatMap.mp hmem
  exact flush_notMem_messages _ ch _ hch

/-- A channel with a value gives at least one message. -/
theorem tickMessages_eq_nil_iff (s : State) : tickMessages s = [] ↔ ∀ ch : Channel, s.accVal ch = 0 := by
  rw [tickMessages, List.flatMap_eq_nil_iff]
  refine ⟨fun h ch => ?_, fun h ch _ => (messages_eq_nil_iff _ ch _).mpr (h ch)⟩
  by_contra hne
  have hmem : ch ∈ channels.filter fun ch => decide (s.accVal ch ≠ 0) :=
    List.mem_filter.mpr ⟨mem_channels ch, decide_eq_true hne⟩
  exact hne ((messages_eq_nil_iff _ ch _).mp (h ch hmem))

theorem closedByOneFlush_tickReport (s : State) : ClosedByOneFlush (tickReport s) :=
  closedByOneFlush_append_ite (tickMessages_eq_nil_iff s) (flush_notMem_tickMessages s)

/-- A TICK appends what it would leave in an empty PEND, which is one event's report. -/
theorem length_tickReport_le {s : State} (hc : configOk s.cfg = true) (hacc : s.AccBounded) :
    (tickReport s).length ≤ 25 := by
  have hempty : (tick { s with pend := [] }).pend = tickReport s := tick_pend { s with pend := [] }
  obtain ⟨hlen, -⟩ := (isEventReport_tick (s := { s with pend := [] }) hc hacc rfl).pendShape
  rwa [hempty] at hlen

/-- An RX that completes leaves PEND as it was, or it completes a frame. -/
theorem pend_of_exec_rx {byte : Byte} {s t : State} (h : exec (.rx byte) s = .next t) :
    t.pend = s.pend ∨ t = completeFrame byte s := by
  change execRx byte s = _ at h
  obtain ⟨-, e⟩ | ⟨-, -, -, e⟩ | ⟨-, -, -, e⟩ | ⟨-, -, e⟩ | ⟨-, -, -, e⟩ | ⟨-, -, -, e⟩ | ⟨-, -, e⟩ :=
    execRx_cases byte s <;> rw [e] at h <;> cases h
  · exact .inl rfl
  · exact .inl rfl
  · exact .inl rfl
  · exact .inr rfl

/-- Settles O35: a TICK appends its report, an RX nothing or the report of the frame it completes, whose value is
saturated, and a SCAN does not touch PEND. -/
theorem oneFlushAfterTheLastMessage : Obligations.OneFlushAfterTheLastMessage := by
  refine ⟨fun s t hacc h => ?_, fun byte s t h => ?_, fun a b s t h => ?_⟩
  · obtain ⟨-, hc, rfl⟩ := exec_tick_eq_next_iff.mp h
    exact ⟨tickReport s, tick_pend s, length_tickReport_le hc hacc, closedByOneFlush_tickReport s⟩
  · obtain hpend | rfl := pend_of_exec_rx h
    · exact ⟨[], by rw [hpend, List.append_nil], Nat.zero_le 4, closedByOneFlush_nil⟩
    · rw [completeFrame_spec]
      exact ⟨_, rfl, length_reportOf_le_four _ _ (sat_bounds _), closedByOneFlush_reportOf _ _ _⟩
  · rw [exec_scan_of_quad (variant_of_exec_scan h)] at h
    cases h
    rw [scanned_frame]

end Sys2Proof.Machine
end

section
/-! PROOFS. The statements of 60_exceptions.md: the hold and the recorded refusal (R84, R28), a refused event (R85),
the unreachable parse state (R86), and the output that no step but RESET takes back (R84, R29, R35). -/

namespace Sys2Proof.Machine

/-! ### The hold, the recorded refusal and the empty port (R84, R28, R95) -/

theorem blockMove_of_port_empty {s : State} (h : s.port = none) : blockMove s = .next s := by
  rw [blockMove, h]

theorem holding_of_pend_ne_nil {s : State} (h : s.pend ≠ []) : s.holding = true := by
  simp [State.holding, h]

theorem refusalRecorded_of_ne_none {s : State} (h : s.refusal ≠ none) : s.refusalRecorded = true :=
  Option.isSome_iff_ne_none.mpr h

/-- What is in the way of an event keeps it at the port, before any check (R88). -/
theorem blockMove_of_kept {s : State} (h : (s.refusalRecorded || s.holding) = true) : blockMove s = .next s := by
  cases hport : s.port with
  | none => exact blockMove_of_port_empty hport
  | some w => simp only [blockMove, hport, h, if_true]

/-- Settles O42: each of the three conditions stops the Block before it looks at the event or the configuration. -/
theorem heldEventChangesNothing : Obligations.HeldEventChangesNothing := by
  intro s hline hturn hkept
  rw [step_of_block_turn hline hturn]
  obtain hpend | hrefusal | hport := hkept
  · exact blockMove_of_kept (by rw [holding_of_pend_ne_nil (s := s.endTurn) hpend, Bool.or_true])
  · exact blockMove_of_kept (by rw [refusalRecorded_of_ne_none (s := s.endTurn) hrefusal, Bool.true_or])
  · exact blockMove_of_port_empty (s := s.endTurn) hport

/-! ### A refused event (R85, R41 to R43, R54, R65, R78) -/

/-- A word of RX's kind is an RX or ill-padded, by its P1 (R41). -/
theorem decodeEv_of_evKind_rx {w : EventWord} (h : evKind w = 0b01#2) :
    decodeEv w = if evP1 w = 0#8 then .ok (.rx (evP0 w)) else .error .rxPadding := by
  simp [decodeEv, h]

/-- A word of TICK's kind is the TICK or ill-padded, by its payload (R42). -/
theorem decodeEv_of_evKind_tick {w : EventWord} (h : evKind w = 0b10#2) :
    decodeEv w = if evP1 w = 0#8 ∧ evP0 w = 0#8 then .ok .tick else .error .tickPadding := by
  simp [decodeEv, h]

theorem takeEvent_of_decodeEv_error {w : EventWord} {e : Reject} (h : decodeEv w = .error e) (s : State) :
    takeEvent w s = .next (s.recordRefusal (rejectReason s.cfg e)) := by
  rw [takeEvent, h]

theorem rejectReason_rxPadding_of_serial {c : Config} (hs : c.variant = .serial) :
    rejectReason c .rxPadding = .badPadding :=
  if_pos hs

theorem rejectReason_rxPadding_of_quad {c : Config} (hq : c.variant = .quad) :
    rejectReason c .rxPadding = .wrongVariant :=
  if_neg (by rw [hq]; decide)

theorem rejectReason_tickPadding_of_serial {c : Config} (hs : c.variant = .serial) :
    rejectReason c .tickPadding = .wrongVariant :=
  if_neg (by rw [hs]; decide)

section
variable {s : State} {w : EventWord} (htakes : s.Takes w)
include htakes

/-- Recording the refusal of a taken event: no earlier reason stands in the mark (R28). -/
theorem State.Takes.recordRefusal_eq (r : RefusalReason) :
    s.endTurn.consume.recordRefusal r = { s.endTurn with port := none, refusal := some r } :=
  State.recordRefusal_of_none (s := s.endTurn.consume) htakes.refusal r

/-- An event whose operation refuses is consumed, and the mark holds the operation's reason. -/
theorem State.Takes.step_of_exec_refused {i : Instr} {r : RefusalReason} (hdecode : decodeEv w = .ok i)
    (hexec : exec i s.endTurn.consume = .refused (.because r)) :
    step s = .next { s.endTurn with port := none, refusal := some r } := by
  rw [htakes.step_eq, takeEvent_of_decodeEv hdecode, hexec, settle, htakes.recordRefusal_eq]

/-- An event that the decoder rejects is consumed, and the mark holds the reason of the rejection. -/
theorem State.Takes.step_of_rejected {e : Reject} {r : RefusalReason} (hdecode : decodeEv w = .error e)
    (hreason : rejectReason s.cfg e = r) :
    step s = .next { s.endTurn with port := none, refusal := some r } := by
  subst hreason
  rw [htakes.step_eq, takeEvent_of_decodeEv_error hdecode, htakes.recordRefusal_eq]; rfl

/-- Under QUAD an RX is of the wrong variant, ill-padded or not (R65, log 21). -/
theorem State.Takes.step_of_rx_of_quad (hkind : evKind w = 0b01#2) (hq : s.cfg.variant = .quad) :
    step s = .next { s.endTurn with port := none, refusal := some .wrongVariant } := by
  have hdecode := decodeEv_of_evKind_rx hkind
  split_ifs at hdecode
  · exact htakes.step_of_exec_refused hdecode (exec_rx_of_quad (s := s.endTurn.consume) hq _)
  · exact htakes.step_of_rejected hdecode (rejectReason_rxPadding_of_quad hq)

/-- Under SERIAL a TICK is of the wrong variant, ill-padded or not (R78, log 21). -/
theorem State.Takes.step_of_tick_of_serial (hkind : evKind w = 0b10#2) (hs : s.cfg.variant = .serial) :
    step s = .next { s.endTurn with port := none, refusal := some .wrongVariant } := by
  have hdecode := decodeEv_of_evKind_tick hkind
  split_ifs at hdecode
  · exact htakes.step_of_exec_refused hdecode (exec_tick_of_serial (s := s.endTurn.consume) hs)
  · exact htakes.step_of_rejected hdecode (rejectReason_tickPadding_of_serial hs)

end

/-- Settles O40: a reserved event and one of the other variant are refused by their operation, an ill-padded one by
the decoder, and either way the step only consumes the event and sets the mark. -/
theorem refusedEventSetsTheMark : Obligations.RefusedEventSetsTheMark := by
  intro s w htakes
  refine ⟨fun hkind => ?_, fun hkind hs hpad => ?_, fun hkind hq hpayload => ?_, fun hkind hq => ?_,
    fun hkind hs => ?_⟩
  · exact htakes.step_of_exec_refused (decodeEv_of_evKind_reserved hkind) (exec_reserved _ _ _)
  · exact htakes.step_of_rejected ((decodeEv_of_evKind_rx hkind).trans (if_neg hpad))
      (rejectReason_rxPadding_of_serial hs)
  · exact htakes.step_of_rejected (decodeEv_of_tick_payload hkind hpayload) (rejectReason_tickPadding_of_quad hq)
  · exact htakes.step_of_rx_of_quad hkind hq
  · obtain hscan | htick := hkind
    · exact htakes.step_of_exec_refused (decodeEv_of_evKind_scan hscan)
        (exec_scan_of_serial (s := s.endTurn.consume) hs _ _)
    · exact htakes.step_of_tick_of_serial htick hs

/-! ### The unreachable parse state (R86) -/

theorem decodePd_unreachable (byte : Byte) : decodePd (parserWord 0b11#2 byte) = .rxUnreachable byte :=
  decodePd_parserWord 0b11#2 byte

theorem exec_rxUnreachable (byte : Byte) (s : State) :
    exec (.rxUnreachable byte) s = .fault .unreachableParseState := rfl

theorem exec_rx_of_unreachable {s : State} (hs : s.cfg.variant = .serial) (hfps : s.fps = 0b11#2) (byte : Byte) :
    exec (.rx byte) s = .fault .unreachableParseState := by
  rw [exec_rx_of_serial hs, hfps, decodePd_unreachable, exec_rxUnreachable]

/-- A taken event writes FPS only by an RX, with one of the three reachable values (R66, R68, R69). -/
theorem takeEvent_fps_ne_unreachable {w : EventWord} {s t : State} (hfps : s.fps ≠ 0b11#2)
    (h : takeEvent w s = .next t) : t.fps ≠ 0b11#2 := by
  obtain ⟨r, rfl⟩ | ⟨a, b, -, -, ⟨-, rfl⟩ | ⟨-, rfl⟩⟩ | ⟨-, -, -, rfl⟩ | ⟨byte, -, -, hrx⟩ := takeEvent_cases h
  · exact hfps
  · rw [(scanEdges_spec a b s).2.2]; exact hfps
  · rw [(prime_spec a b s).2]; exact hfps
  · rw [(tick_spec s).2.2]; exact hfps
  · obtain ⟨-, -, rfl⟩ | ⟨-, -, rfl⟩ | ⟨-, rfl⟩ | ⟨-, -, rfl⟩ := hrx
    · exact (by decide : 0b01#2 ≠ 0b11#2)
    · exact hfps
    · exact (by decide : 0b10#2 ≠ 0b11#2)
    · rw [completeFrame_fps]; decide

theorem blockMove_fps_ne_unreachable {s t : State} (hfps : s.fps ≠ 0b11#2) (h : blockMove s = .next t) :
    t.fps ≠ 0b11#2 := by
  obtain rfl | ⟨w, -, -, -, ⟨-, rfl⟩ | ⟨-, htake⟩⟩ := blockMove_cases h
  · exact hfps
  · exact hfps
  · exact takeEvent_fps_ne_unreachable (s := s.consume) hfps htake

theorem step_fps_ne_unreachable {s t : State} (hfps : s.fps ≠ 0b11#2) (h : step s = .next t) : t.fps ≠ 0b11#2 := by
  obtain ⟨-, hreset⟩ | ⟨-, ⟨-, rfl⟩ | ⟨-, rfl⟩ | ⟨-, hblock⟩⟩ := step_cases h
  · cases hreset; exact (by decide : 0b00#2 ≠ 0b11#2)
  · rw [hostMove_frame]; exact hfps
  · rw [transportMove_frame]; exact hfps
  · exact blockMove_fps_ne_unreachable (s := s.endTurn) hfps hblock

/-- Settles O22: reset and every step keep FPS off 11, and there the parser's word is the row that has no step. -/
theorem unreachableParseStateIsStuck : Obligations.UnreachableParseStateIsStuck :=
  ⟨rfl, fun _ _ => step_fps_ne_unreachable, decodePd_unreachable, exec_rxUnreachable,
    fun byte _ hs hfps => exec_rx_of_unreachable hs hfps byte⟩

/-! ### The output (R84, R29, R35) -/

/-- Everything the block has put out: what was delivered, then what is pending, as it will be delivered. -/
def State.output (s : State) : List Delivery := s.delivered ++ s.pend.map deliver

/-- A move that delivers nothing and at most appends to PEND keeps the output at the front. -/
theorem output_prefix_of_pend_prefix {s t : State} (hdelivered : t.delivered = s.delivered)
    (hpend : s.pend <+: t.pend) : s.output <+: t.output := by
  rw [State.output, State.output, hdelivered]
  exact (List.prefix_append_right_inj _).mpr (hpend.map deliver)

/-- Delivering the head of PEND moves it over without changing the output (R29). -/
theorem transportMove_output (s : State) : (transportMove s).output = s.output := by
  cases hpend : s.pend with
  | nil => rw [transportMove_of_pend_nil hpend]
  | cons item rest => rw [transportMove_of_pend_cons hpend]; simp [State.output, hpend]

theorem hostMove_output (s : State) : (hostMove s).output = s.output := by
  rw [hostMove_frame]; rfl

theorem output_prefix_of_blockMove {s t : State} (h : blockMove s = .next t) : s.output <+: t.output := by
  obtain rfl | ⟨w, -, -, -, ⟨-, rfl⟩ | ⟨-, htake⟩⟩ := blockMove_cases h
  · exact List.prefix_rfl
  · exact List.prefix_rfl
  · obtain ⟨-, -, -, -, -, -, hdelivered, -⟩ := takeEvent_frame htake
    exact output_prefix_of_pend_prefix (s := s.consume) hdelivered (takeEvent_pend htake)

/-- Settles O49: the Host and the Transport do not change the output, and the Block only appends to it. -/
theorem outputIsNeverDroppedOrReordered : Obligations.OutputIsNeverDroppedOrReordered := by
  intro s t hline h
  change s.endTurn.output <+: t.output
  obtain ⟨hhigh, -⟩ | ⟨-, ⟨-, rfl⟩ | ⟨-, rfl⟩ | ⟨-, hblock⟩⟩ := step_cases h
  · rw [hline] at hhigh; cases hhigh
  · rw [hostMove_output]
  · rw [transportMove_output]
  · exact output_prefix_of_blockMove hblock

end Sys2Proof.Machine
end

section
/-! PROOFS. The statements of 70_reset_and_hazards.md: RESET (R96), motion between two samples and beyond the bound
(R100, R104), and what delivery and the taking of events owe to the turns of the agents (R106). -/

namespace Sys2Proof.Machine

/-! ### RESET (R96) -/

/-- Settles O37: the assignments of `execReset`, which an asserted line makes the whole of the next step. -/
theorem resetSetsEveryItemAndTakesPriority : Obligations.ResetSetsEveryItemAndTakesPriority := by
  refine ⟨fun s => ⟨_, rfl, fun ch => ?_, rfl, rfl, rfl, rfl, rfl, rfl, rfl, rfl, rfl, rfl, rfl, rfl, rfl⟩,
    fun s hline => step_of_line_high hline⟩
  exact ⟨Vector.getElem_replicate _, Vector.getElem_replicate _, Vector.getElem_replicate _⟩

/-- Every accumulator is 0 at reset. -/
theorem reset_accVal (ch : Channel) : State.reset.accVal ch = 0 := by
  revert ch; decide

/-- Settles O50: the registers are zero, and nothing is pending or delivered. -/
theorem resetStateIsSound : Obligations.ResetStateIsSound where
  acc ch := by rw [reset_accVal]; decide
  fps := by decide
  inert := ⟨fun _ => ⟨rfl, rfl, rfl, rfl⟩, fun _ => ⟨rfl, rfl⟩⟩
  drained _ := reset_accVal
  shape := ⟨Nat.zero_le _, fun hne => absurd rfl hne⟩
  items _ hitem := (List.not_mem_nil hitem).elim
  deliveries _ hd := (List.not_mem_nil hd).elim

/-! ### Motion beyond the bound (R64, R104) -/

/-- An operation that always completes, run n times in a row. -/
theorem repeatExec_of_exec {i : Instr} {f : State → State} (h : ∀ s, exec i s = .next (f s)) (n : Nat) (s : State) :
    repeatExec n i s = .next (f^[n] s) := by
  induction n generalizing s with
  | zero => rfl
  | succ n ih => rw [repeatExec, h s, Function.iterate_succ_apply]; exact ih (f s)

section
variable {s : State} {ch : Channel} (h : -127 ≤ s.accVal ch ∧ s.accVal ch ≤ 127) (n : Nat)
include h

/-- Increments from within the bounds add up until the upper bound is met. -/
theorem accVal_iterate_edgeInc : ((edgeInc ch)^[n] s).accVal ch = min 127 (s.accVal ch + n) := by
  induction n with
  | zero => rw [Function.iterate_zero_apply]; omega
  | succ n ih => rw [Function.iterate_succ_apply', edgeInc, satAdd_accVal, ih]; omega

/-- Decrements from within the bounds add up until the lower bound is met. -/
theorem accVal_iterate_edgeDec : ((edgeDec ch)^[n] s).accVal ch = max (-127) (s.accVal ch - n) := by
  induction n with
  | zero => rw [Function.iterate_zero_apply]; omega
  | succ n ih => rw [Function.iterate_succ_apply', edgeDec, satAdd_accVal, ih]; omega

end

/-- Settles O12: n increments from 0 stop at the upper bound, and the decrements count from where they stopped. -/
theorem saturationLosesMotionBeyondTheBound : Obligations.SaturationLosesMotionBeyondTheBound := by
  intro ch n m s hzero
  have hinc : ((edgeInc ch)^[n] s).accVal ch = min 127 (n : Int) := by
    rw [accVal_iterate_edgeInc (by omega), hzero, Int.zero_add]
  refine ⟨(edgeInc ch)^[n] s, (edgeDec ch)^[m] ((edgeInc ch)^[n] s), repeatExec_of_exec (fun _ => rfl) n s, hinc,
    repeatExec_of_exec (fun _ => rfl) m _, ?_⟩
  rw [accVal_iterate_edgeDec (by omega), hinc]

/-! ### Motion between two samples (R44, R100) -/

/-- Four steps forward come back to the same phase. -/
theorem forwardStep_iterate_four (p : BitVec 2) : Function.IsPeriodicPt forwardStep 4 p := by
  revert p; unfold Function.IsPeriodicPt Function.IsFixedPt; decide

theorem forwardStep_iterate_mod_four (n : Nat) (p : BitVec 2) : forwardStep^[n % 4] p = forwardStep^[n] p :=
  (forwardStep_iterate_four p).iterate_mod_apply n

/-- The edge that n steps forward between two samples show (R100). -/
def motionEdge (n : Nat) : EdgeKind :=
  if n % 4 = 1 then .inc else if n % 4 = 3 then .dec else if n % 4 = 2 then .skip else .none

theorem edgeKind_forwardSteps (n : Nat) (p : BitVec 2) :
    edgeKind (transitionIndex p (forwardStep^[n] p)) = motionEdge n := by
  have hfew : ∀ r < 4, ∀ p : BitVec 2, edgeKind (transitionIndex p (forwardStep^[r] p)) = motionEdge r := by decide
  rw [← forwardStep_iterate_mod_four, hfew _ (Nat.mod_lt n (by decide)), motionEdge, Nat.mod_mod]; rfl

/-- A SCAN after n steps forward on one channel. -/
theorem scanEdges_accVal_of_forward {a b : Byte} {ch : Channel} {n : Nat} {s : State}
    (h : newPhase a b ch = forwardStep^[n] s.phase[ch]) :
    (scanEdges a b s).accVal ch =
      if n % 4 = 1 then max (-127) (min 127 (s.accVal ch + 1))
      else if n % 4 = 3 then max (-127) (min 127 (s.accVal ch - 1)) else s.accVal ch := by
  rw [(scanEdges_spec a b s).2.1, (edgeOp_spec _ ch s).1, h, edgeKind_forwardSteps, motionEdge]
  split_ifs <;> rfl

/-- n steps backward show the same two phases as 3 * n steps forward. -/
theorem forward_of_backward {n : Nat} {p q : BitVec 2} (h : p = forwardStep^[n] q) : q = forwardStep^[3 * n] p := by
  rw [h, ← Function.iterate_add_apply, ← forwardStep_iterate_mod_four, show (3 * n + n) % 4 = 0 by omega]; rfl

/-- Settles O8: n steps forward show the edge of n mod 4, and n steps backward are 3 * n steps forward. -/
theorem aliasedMotionCountsModFour : Obligations.AliasedMotionCountsModFour := by
  intro a b ch n s hq hvalid
  refine ⟨scanEdges a b s, by rw [exec_scan_of_quad hq, scanned_of_primed hvalid], scanEdges_accVal_of_forward,
    fun hback => ?_⟩
  have hone : 3 * n % 4 = 1 ↔ n % 4 = 3 := by omega
  have hthree : 3 * n % 4 = 3 ↔ n % 4 = 1 := by omega
  rw [scanEdges_accVal_of_forward (forward_of_backward hback)]
  simp only [hone, hthree]
  split_ifs
  · omega
  · rfl
  · rfl
  · rfl

/-! ### Runs without RESET (R106) -/

/-- RESET is not asserted, and the Host will not assert it. -/
structure State.Unreset (s : State) : Prop where
  line : s.resetLine = false
  queue : ∀ act ∈ s.hostQueue, act ≠ .reset

theorem State.Unreset.hostMove {s : State} (h : s.Unreset) : (hostMove s).Unreset := by
  cases hqueue : s.hostQueue with
  | nil => rw [hostMove_of_queue_nil hqueue]; exact h
  | cons act rest =>
    have hrest : ∀ act ∈ rest, act ≠ .reset := fun act hact => h.queue act (hqueue ▸ List.mem_cons_of_mem _ hact)
    cases act with
    | reset => exact absurd rfl (h.queue .reset (hqueue ▸ List.mem_cons_self))
    | event w =>
      cases hport : s.port with
      | none => rw [hostMove_of_port_free hqueue hport]; exact ⟨h.line, hrest⟩
      | some v => rw [hostMove_of_port_taken hqueue (by rw [hport]; exact Option.some_ne_none v)]; exact h

/-- What the Block's move leaves to the Host, to the order of turns and to the Transport. -/
theorem blockMove_frame {s t : State} (h : blockMove s = .next t) :
    t.resetLine = s.resetLine ∧ t.hostQueue = s.hostQueue ∧ t.turns = s.turns ∧ t.schedule = s.schedule ∧
      t.delivered = s.delivered := by
  obtain rfl | ⟨w, -, -, -, ⟨-, rfl⟩ | ⟨-, htake⟩⟩ := blockMove_cases h
  · exact ⟨rfl, rfl, rfl, rfl, rfl⟩
  · exact ⟨rfl, rfl, rfl, rfl, rfl⟩
  · obtain ⟨-, -, hline, hqueue, hturns, hschedule, hdelivered, -⟩ := takeEvent_frame htake
    exact ⟨hline, hqueue, hturns, hschedule, hdelivered⟩

section
variable {s t : State} (h : s.Unreset) (hstep : step s = .next t)
include h hstep

/-- A step without RESET is the move of the agent whose turn it is. -/
theorem State.Unreset.move_of_step :
    s.nextAgent = .host ∧ t = Machine.hostMove s.endTurn ∨
    s.nextAgent = .transport ∧ t = transportMove s.endTurn ∨
    s.nextAgent = .block ∧ blockMove s.endTurn = .next t := by
  obtain ⟨hhigh, -⟩ | ⟨-, hmove⟩ := step_cases hstep
  · rw [h.line] at hhigh; cases hhigh
  · exact hmove

theorem State.Unreset.of_step : t.Unreset := by
  have hturn : s.endTurn.Unreset := ⟨h.line, h.queue⟩
  obtain ⟨-, rfl⟩ | ⟨-, rfl⟩ | ⟨-, hblock⟩ := h.move_of_step hstep
  · exact hturn.hostMove
  · rw [transportMove_frame]; exact ⟨h.line, h.queue⟩
  · obtain ⟨hline, hqueue, -⟩ := blockMove_frame hblock
    exact ⟨hline.trans h.line, by rw [hqueue]; exact h.queue⟩

/-- Each step uses one turn, whoever has it. -/
theorem State.Unreset.turns_of_step : t.turns = s.endTurn.turns ∧ t.schedule = s.endTurn.schedule := by
  obtain ⟨-, rfl⟩ | ⟨-, rfl⟩ | ⟨-, hblock⟩ := h.move_of_step hstep
  · rw [hostMove_frame]; exact ⟨rfl, rfl⟩
  · rw [transportMove_frame]; exact ⟨rfl, rfl⟩
  · obtain ⟨-, -, hturns, hschedule, -⟩ := blockMove_frame hblock
    exact ⟨hturns, hschedule⟩

/-- No step takes a delivery back (R29). -/
theorem State.Unreset.delivered_of_step : s.delivered <+: t.delivered := by
  obtain ⟨-, rfl⟩ | ⟨-, rfl⟩ | ⟨-, hblock⟩ := h.move_of_step hstep
  · rw [hostMove_frame]; exact List.prefix_rfl
  · cases hpend : s.pend with
    | nil => rw [transportMove_of_pend_nil (s := s.endTurn) hpend]; exact List.prefix_rfl
    | cons item rest =>
      rw [transportMove_of_pend_cons (s := s.endTurn) hpend]; exact List.prefix_append _ _
  · obtain ⟨-, -, -, -, hdelivered⟩ := blockMove_frame hblock
    rw [hdelivered]; exact List.prefix_rfl

end

theorem State.Unreset.of_steps {n : Nat} {s t : State} (h : s.Unreset) (hsteps : steps n s = .next t) : t.Unreset := by
  induction n generalizing s with
  | zero => cases hsteps; exact h
  | succ n ih =>
    obtain ⟨u, hstep, hsteps⟩ := step_of_steps hsteps
    exact ih (h.of_step hstep) hsteps

/-- Of a run that reaches two times, the later continues the earlier. -/
theorem steps_of_le {m n : Nat} {s t u : State} (ht : steps m s = .next t) (hle : m ≤ n) (hu : steps n s = .next u) :
    ∃ r, steps r t = .next u := by
  obtain ⟨r, rfl⟩ := Nat.exists_eq_add_of_le hle
  exact ⟨r, by rw [← steps_add ht, hu]⟩

/-- An agent that has the turn again and again has it again and again later on. -/
theorem TurnsForEver.of_steps {a : Agent} {m : Nat} {s t : State} (h : TurnsForEver a s) (ht : steps m s = .next t) :
    TurnsForEver a t := by
  intro n
  obtain ⟨k, u, hk, hu, hagent⟩ := h (m + n)
  obtain ⟨r, rfl⟩ := Nat.exists_eq_add_of_le (Nat.le_of_add_right_le hk)
  exact ⟨r, u, by omega, by rw [← steps_add ht, hu], hagent⟩

/-! ### What the Transport still has to deliver (R29, R106) -/

/-- The list l stands at the front of the output, and at most k of its items are not delivered yet. -/
structure State.Owes (s : State) (k : Nat) (l : List Delivery) : Prop where
  output : l <+: s.output
  length : l.length ≤ s.delivered.length + k

theorem State.owes_output (s : State) : s.Owes s.pend.length s.output :=
  ⟨List.prefix_rfl, by rw [State.output, List.length_append, List.length_map]⟩

theorem State.Owes.mono {s : State} {j k : Nat} {l : List Delivery} (h : s.Owes j l) (hle : j ≤ k) : s.Owes k l :=
  ⟨h.output, by have := h.length; omega⟩

/-- What is owed nothing of has been delivered. -/
theorem State.Owes.delivered {s : State} {l : List Delivery} (h : s.Owes 0 l) : l <+: s.delivered :=
  List.prefix_of_prefix_length_le h.output (List.prefix_append _ _) h.length

/-- Once the whole output is delivered, nothing is pending. -/
theorem State.Owes.pend_eq_nil {s : State} (h : s.Owes 0 s.output) : s.pend = [] := by
  have hlen := h.length
  rw [State.output, List.length_append, List.length_map] at hlen
  exact List.eq_nil_of_length_eq_zero (by omega)

/-- The Transport's move delivers one item more, unless everything is delivered. -/
theorem State.Owes.transportMove {s : State} {k : Nat} {l : List Delivery} (h : s.Owes (k + 1) l) :
    (transportMove s).Owes k l := by
  refine ⟨by rw [transportMove_output]; exact h.output, ?_⟩
  cases hpend : s.pend with
  | nil =>
    have hall := h.output.length_le
    rw [State.output, hpend, List.map_nil, List.append_nil] at hall
    rw [transportMove_of_pend_nil hpend]; omega
  | cons item rest =>
    have hlen := h.length
    rw [transportMove_of_pend_cons hpend, List.length_append, List.length_singleton]; omega

section
variable {s t : State} (hs : s.Unreset) {k : Nat} {l : List Delivery}
include hs

/-- No step owes more. -/
theorem State.Owes.of_step (h : s.Owes k l) (hstep : step s = .next t) : t.Owes k l := by
  refine ⟨h.output.trans (outputIsNeverDroppedOrReordered s t hs.line hstep), ?_⟩
  have hdelivered := (hs.delivered_of_step hstep).length_le
  have hlen := h.length
  omega

/-- Each of the Transport's turns leaves one item less owed. -/
theorem State.Owes.of_transport_turn (h : s.Owes (k + 1) l) (hturn : s.nextAgent = .transport)
    (hstep : step s = .next t) : t.Owes k l := by
  rw [step_of_transport_turn hs.line hturn] at hstep
  cases hstep
  exact State.Owes.transportMove (s := s.endTurn) ⟨h.output, h.length⟩

theorem State.Owes.of_steps {n : Nat} (h : s.Owes k l) (hsteps : steps n s = .next t) : t.Owes k l := by
  induction n generalizing s with
  | zero => cases hsteps; exact h
  | succ n ih =>
    obtain ⟨u, hstep, hsteps⟩ := step_of_steps hsteps
    exact ih (hs.of_step hstep) (h.of_step hs hstep) hsteps

/-- Over the turns laid down, the Transport delivers one item for each of its turns. -/
theorem State.Owes.of_turns {n : Nat} (hn : n ≤ s.turns.length)
    (h : s.Owes ((s.turns.take n).count .transport) l) (hsteps : steps n s = .next t) : t.Owes 0 l := by
  induction n generalizing s with
  | zero => cases hsteps; exact h
  | succ n ih =>
    obtain ⟨u, hstep, hsteps⟩ := step_of_steps hsteps
    obtain ⟨a, rest, hturns⟩ := List.exists_cons_of_length_pos (Nat.zero_lt_of_lt hn)
    have hu : u.turns = rest := by rw [(hs.turns_of_step hstep).1, State.endTurn_turns, hturns, List.tail_cons]
    rw [hturns, List.length_cons] at hn
    rw [hturns, List.take_succ_cons, List.count_cons] at h
    refine ih (hs.of_step hstep) (by rw [hu]; omega) ?_ hsteps
    rw [hu]
    by_cases ha : a = .transport
    · subst ha
      exact h.of_transport_turn hs (State.nextAgent_of_turns hturns) hstep
    · simp only [beq_iff_eq, ha, if_false, Nat.add_zero] at h
      exact h.of_step hs hstep

/-- With the turn coming to it again and again, the Transport delivers all that is owed. -/
theorem State.Owes.exists_steps_of_turnsForEver (hfair : TurnsForEver .transport s) (h : s.Owes k l) :
    ∃ n t, steps n s = .next t ∧ t.Owes 0 l := by
  induction k generalizing s with
  | zero => exact ⟨0, s, rfl, h⟩
  | succ k ih =>
    obtain ⟨m, u, -, hu, hturn⟩ := hfair 0
    have hnext := step_of_transport_turn (hs.of_steps hu).line hturn
    have hrun : steps (m + 1) s = .next (Machine.transportMove u.endTurn) := by
      rw [steps_add hu, steps_one hnext]
    have howes := (h.of_steps hs hu).of_transport_turn (hs.of_steps hu) hturn hnext
    obtain ⟨n, t, ht, hall⟩ := ih (hs.of_steps hrun) (hfair.of_steps hrun) howes
    exact ⟨m + 1 + n, t, by rw [steps_add hrun, ht], hall⟩

end

/-- Settles O52, by induction on the number of steps: what is owed shrinks at each of the Transport's turns. -/
theorem fairTransportDeliversEverything : Obligations.FairTransportDeliversEverything := by
  intro n s t hline hqueue hn hcount hsteps
  exact ((s.owes_output.mono hcount).of_turns ⟨hline, hqueue⟩ hn hsteps).delivered

/-- Settles O59, by induction on what is owed: there is always a next turn of the Transport. -/
theorem weaklyFairTransportDeliversEveryItem : Obligations.WeaklyFairTransportDeliversEveryItem := by
  intro s hline hqueue hfair
  obtain ⟨n, t, hsteps, hall⟩ := s.owes_output.exists_steps_of_turnsForEver ⟨hline, hqueue⟩ hfair
  exact ⟨n, t, hsteps, hall.delivered⟩

/-! ### The default order (R106) -/

/-- Under the default order the Transport moves first while anything is pending. -/
theorem step_of_pending_by_default {s : State} {item : OutItem} {rest : List OutItem} (hline : s.resetLine = false)
    (hturns : s.turns = []) (hschedule : s.schedule = .byDefault) (hpend : s.pend = item :: rest) :
    step s = .next { s with pend := rest, delivered := s.delivered ++ [deliver item] } := by
  obtain ⟨hagent, hturn⟩ := State.nextAgent_of_default hturns hschedule
  have htransport : s.defaultAgent = .transport :=
    if_pos (holding_of_pend_ne_nil (hpend ▸ List.cons_ne_nil item rest))
  rw [step_of_transport_turn hline (hagent.trans htransport), hturn, transportMove_of_pend_cons hpend]

/-- Settles O53, by induction on PEND: each step is the Transport's, and leaves the default order in place. -/
theorem pendingItemsDrainByDefault : Obligations.PendingItemsDrainByDefault := by
  intro s hline hturns hschedule
  generalize hpend : s.pend = items
  induction items generalizing s with
  | nil => obtain ⟨⟩ := s; cases hpend; simp [steps]
  | cons item rest ih =>
    rw [List.length_cons, steps_of_next (step_of_pending_by_default hline hturns hschedule hpend),
      ih { s with pend := rest, delivered := s.delivered ++ [deliver item] } hline hturns hschedule rfl]
    simp

/-! ### A presented event that waits (R28, R84) -/

/-- Event word w is presented in a run without RESET, with nothing but PEND and the turns to keep it there. -/
structure State.Presents (s : State) (w : EventWord) : Prop where
  unreset : s.Unreset
  port : s.port = some w
  refusal : s.refusal = none
  config : configOk s.cfg = true

/-- While an event stands at the port, a Host that asserts no RESET waits (R28). -/
theorem State.Unreset.hostMove_of_port {s : State} {w : EventWord} (h : s.Unreset) (hport : s.port = some w) :
    Machine.hostMove s = s := by
  cases hqueue : s.hostQueue with
  | nil => exact hostMove_of_queue_nil hqueue
  | cons act rest =>
    cases act with
    | reset => exact absurd rfl (h.queue .reset (hqueue ▸ List.mem_cons_self))
    | event v => exact hostMove_of_port_taken hqueue (by rw [hport]; exact Option.some_ne_none w)

/-- On a turn of the Host, or of the Block with an item pending, a presented event waits: the turn is only used. -/
theorem State.Unreset.step_of_held {s : State} {w : EventWord} (h : s.Unreset) (hport : s.port = some w)
    (hturn : s.nextAgent ≠ .transport) (hheld : s.nextAgent = .block → s.pend ≠ []) :
    step s = .next s.endTurn := by
  cases hagent : s.nextAgent with
  | transport => exact absurd hagent hturn
  | block => exact heldEventChangesNothing s h.line hagent (.inl (hheld hagent))
  | host =>
    have hused : s.endTurn.Unreset := ⟨h.line, h.queue⟩
    rw [step_of_host_turn h.line hagent, hused.hostMove_of_port hport]

/-- A step that does not take the presented event leaves it presented, and the output as it is. -/
theorem State.Presents.of_step {s t : State} {w : EventWord} (h : s.Presents w) (hwaits : ¬ s.Takes w)
    (hstep : step s = .next t) : t.Presents w ∧ t.output = s.output := by
  have hunreset := h.unreset.of_step hstep
  by_cases hturn : s.nextAgent = .transport
  · rw [step_of_transport_turn h.unreset.line hturn] at hstep
    cases hstep
    refine ⟨⟨hunreset, ?_, ?_, ?_⟩, transportMove_output s.endTurn⟩ <;> rw [transportMove_frame]
    · exact h.port
    · exact h.refusal
    · exact h.config
  · have hheld : s.nextAgent = .block → s.pend ≠ [] := fun hagent hpend =>
      hwaits ⟨h.unreset.line, hagent, h.port, hpend, h.refusal, h.config⟩
    rw [h.unreset.step_of_held h.port hturn hheld] at hstep
    cases hstep
    exact ⟨⟨hunreset, h.port, h.refusal, h.config⟩, rfl⟩

/-- In a run that never takes the presented event it stays presented, and the output stays as it is. -/
theorem State.Presents.of_steps {n : Nat} {s t : State} {w : EventWord} (h : s.Presents w)
    (hnever : ∀ m u, steps m s = .next u → ¬ u.Takes w) (hsteps : steps n s = .next t) :
    t.Presents w ∧ t.output = s.output := by
  induction n generalizing s with
  | zero => cases hsteps; exact ⟨h, rfl⟩
  | succ n ih =>
    obtain ⟨u, hstep, hsteps⟩ := step_of_steps hsteps
    obtain ⟨hu, houtput⟩ := h.of_step (hnever 0 s rfl) hstep
    obtain ⟨ht, hsame⟩ := ih hu (fun m v hv => hnever (m + 1) v (by rw [steps_of_next hstep, hv])) hsteps
    exact ⟨ht, hsame.trans houtput⟩

/-- Settles O60. Were the event never taken, the output would stay as it is, so that the Transport would deliver all
of it; and on the Block's next turn after that nothing would keep the event. -/
theorem fairnessTakesThePresentedEvent : Obligations.FairnessTakesThePresentedEvent := by
  intro s w hline hqueue hport hrefusal hconfig hfair hblock
  by_contra hnone
  have hnever : ∀ m u, steps m s = .next u → ¬ u.Takes w := fun m u hu htakes => hnone ⟨m, u, hu, htakes⟩
  have hs : s.Unreset := ⟨hline, hqueue⟩
  obtain ⟨n, t, ht, hall⟩ := s.owes_output.exists_steps_of_turnsForEver hs hfair
  obtain ⟨m, u, hle, hu, hturn⟩ := hblock n
  obtain ⟨r, hr⟩ := steps_of_le ht hle hu
  obtain ⟨hpresents, houtput⟩ := State.Presents.of_steps ⟨hs, hport, hrefusal, hconfig⟩ hnever hu
  have hdelivered : u.Owes 0 u.output := by rw [houtput]; exact hall.of_steps (hs.of_steps ht) hr
  exact hnever m u hu ⟨hpresents.unreset.line, hturn, hpresents.port, hdelivered.pend_eq_nil, hpresents.refusal,
    hpresents.config⟩

/-! ### A Transport left out (R106) -/

theorem NeverTurns.of_step {a : Agent} {s t : State} (h : NeverTurns a s) (hstep : step s = .next t) : NeverTurns a t :=
  fun n u hu => h (n + 1) u (by rw [steps_of_next hstep, hu])

/-- An event held by pending items, in a run that never gives the Transport the turn: only turns are used. -/
theorem steps_of_transport_left_out {s : State} {w : EventWord} (h : s.Unreset) (hport : s.port = some w)
    (hpend : s.pend ≠ []) (hnever : NeverTurns .transport s) (n : Nat) :
    ∃ t : State, steps n s = .next t ∧ t = { s with turns := t.turns, schedule := t.schedule } := by
  induction n generalizing s with
  | zero => exact ⟨s, rfl, rfl⟩
  | succ n ih =>
    have hstep := h.step_of_held hport (hnever 0 s rfl) fun _ => hpend
    obtain ⟨t, hsteps, hframe⟩ := ih (h.of_step hstep) hport hpend (hnever.of_step hstep)
    exact ⟨t, by rw [steps_of_next hstep, hsteps], hframe⟩

/-- The turns come round for ever among agents other than a. -/
def State.RoundWithout (s : State) (a : Agent) : Prop :=
  s.turns = [] ∧ ∃ first others, s.schedule = .round first others ∧ ∀ b ∈ first :: others, b ≠ a

theorem State.RoundWithout.nextAgent_ne {s : State} {a : Agent} (h : s.RoundWithout a) : s.nextAgent ≠ a := by
  obtain ⟨hturns, first, others, hschedule, hothers⟩ := h
  rw [(State.nextAgent_of_round hturns hschedule).1]
  exact hothers first List.mem_cons_self

/-- A turn moves the round on among the same agents. -/
theorem State.RoundWithout.endTurn {s : State} {a : Agent} (h : s.RoundWithout a) : s.endTurn.RoundWithout a := by
  obtain ⟨hturns, first, others, hschedule, hothers⟩ := h
  obtain ⟨-, hnil, b, rest, hround, hperm⟩ := State.nextAgent_of_round hturns hschedule
  exact ⟨hnil, b, rest, hround, fun c hc => hothers c (hperm.subset hc)⟩

theorem State.RoundWithout.of_step {s t : State} {a : Agent} (h : s.RoundWithout a) (hs : s.Unreset)
    (hstep : step s = .next t) : t.RoundWithout a := by
  obtain ⟨hturns, hschedule⟩ := hs.turns_of_step hstep
  rw [State.RoundWithout, hturns, hschedule]
  exact h.endTurn

theorem State.RoundWithout.neverTurns {s : State} {a : Agent} (h : s.RoundWithout a) (hs : s.Unreset) :
    NeverTurns a s := by
  intro n t hsteps
  induction n generalizing s with
  | zero => cases hsteps; exact h.nextAgent_ne
  | succ n ih =>
    obtain ⟨u, hstep, hsteps⟩ := step_of_steps hsteps
    exact ih (h.of_step hs hstep) (hs.of_step hstep) hsteps

/-- Settles O58: every step of the run finds the event held and the Transport without the turn, and a round keeps
its agents. -/
theorem unfairTransportHoldsTheBlockForEver : Obligations.UnfairTransportHoldsTheBlockForEver := by
  refine ⟨fun s w hline hqueue hport hpend hnever n => ?_,
    fun s a others hturns hschedule hothers hline hqueue => ?_⟩
  · exact steps_of_transport_left_out ⟨hline, hqueue⟩ hport hpend hnever n
  · exact State.RoundWithout.neverTurns ⟨hturns, a, others, hschedule, hothers⟩ ⟨hline, hqueue⟩

end Sys2Proof.Machine
end
